-- ==== Sys2Proof/Word.lean ====
section
/-! DEFINITION. The word types of the machine (rules R7, R11): every value a program can shift, mask or add is a
bit vector of the width the spec gives it, bit 0 the least significant. -/
namespace Sys2Proof

/-- The unit of data memory (R105): 4 bits. -/
abbrev Nibble := BitVec 4
/-- An instruction, or a constant of a table (R100): one 16-bit word of program memory. -/
abbrev Word := BitVec 16
/-- An 8-bit peripheral register's value (R82). -/
abbrev Byte := BitVec 8
/-- The number of a general register: its column address (R50). -/
abbrev RegNum := BitVec 4
/-- A data memory address: 3-bit row, 4-bit column (R105). Register file and peripheral addresses have the same width. -/
abbrev DataAddr := BitVec 7
/-- A program memory address, as PC, AR and the address stack hold it (R20, R28, R36). -/
abbrev CodeAddr := BitVec 10
/-- The operand field of BR and CALL, one bit wider than the program counter (R290, R295). -/
abbrev BranchOperand := BitVec 11

end Sys2Proof
end

