-- ==== Sys2Proof/Syntax.lean ====
section
/-! DEFINITION. The 47 instruction forms of the closed instruction list (R152, spec/opcode_table.json), one constructor
for each row. -/
namespace Sys2Proof

/-- One instruction, its operand fields as the encoding has them: `r` a general register's column, `m` a direct data
memory address, `n4` immediate data, `n` a bit mask, `rf` a register file address, `p` a peripheral address, `addr` the
11-bit operand of BR and CALL, `s` and `h` the standby release conditions. -/
inductive Instr where
  -- addition (40_addition.md)
  | addRM (r : RegNum) (m : DataAddr)
  | addMI (m : DataAddr) (n4 : Nibble)
  | addcRM (r : RegNum) (m : DataAddr)
  | addcMI (m : DataAddr) (n4 : Nibble)
  | incAR
  | incIX
  -- subtraction (41_subtraction.md)
  | subRM (r : RegNum) (m : DataAddr)
  | subMI (m : DataAddr) (n4 : Nibble)
  | subcRM (r : RegNum) (m : DataAddr)
  | subcMI (m : DataAddr) (n4 : Nibble)
  -- logical operations (42_logical.md)
  | orRM (r : RegNum) (m : DataAddr)
  | orMI (m : DataAddr) (n4 : Nibble)
  | andRM (r : RegNum) (m : DataAddr)
  | andMI (m : DataAddr) (n4 : Nibble)
  | xorRM (r : RegNum) (m : DataAddr)
  | xorMI (m : DataAddr) (n4 : Nibble)
  -- bit judgement (43_judgment.md)
  | skt (m : DataAddr) (n : Nibble)
  | skf (m : DataAddr) (n : Nibble)
  -- comparison (44_comparison.md)
  | ske (m : DataAddr) (n4 : Nibble)
  | skne (m : DataAddr) (n4 : Nibble)
  | skge (m : DataAddr) (n4 : Nibble)
  | sklt (m : DataAddr) (n4 : Nibble)
  -- rotation (45_rotation.md)
  | rorc (r : RegNum)
  -- transfer (46_transfer.md)
  | ld (r : RegNum) (m : DataAddr)
  | st (m : DataAddr) (r : RegNum)
  | movIndM (r : RegNum) (m : DataAddr)
  | movMInd (m : DataAddr) (r : RegNum)
  | movMI (m : DataAddr) (n4 : Nibble)
  | movt
  | pushAR
  | popAR
  | peek (rf : DataAddr)
  | poke (rf : DataAddr)
  | get (p : DataAddr)
  | put (p : DataAddr)
  -- branch (47_branch.md)
  | br (addr : BranchOperand)
  | brAR
  -- subroutine (48_subroutine.md)
  | call (addr : BranchOperand)
  | callAR
  | ret
  | retsk
  | reti
  -- interrupt (49_interrupt_instructions.md)
  | ei
  | di
  -- other (50_other.md)
  | stop (s : Nibble)
  | halt (h : Nibble)
  | nop
deriving DecidableEq, Repr

end Sys2Proof
end

