-- ==== Sys2Proof/WellFormed.lean ====
section
/-! DEFINITION. What makes an instruction encodable (R157 (d), R163): the operand of BR and CALL has bit 10 zero. Every
other operand value has an encoding (the reserved STOP and HALT conditions too: they are refused when executed, R310,
R311). -/
namespace Sys2Proof

/-- The instruction has an encoding among the 53821 defined words of R157. -/
def Instr.wellFormed : Instr → Bool
  | .br addr => !addr.getLsbD 10
  | .call addr => !addr.getLsbD 10
  | .addRM _ _ | .addMI _ _ | .addcRM _ _ | .addcMI _ _ | .incAR | .incIX => true
  | .subRM _ _ | .subMI _ _ | .subcRM _ _ | .subcMI _ _ => true
  | .orRM _ _ | .orMI _ _ | .andRM _ _ | .andMI _ _ | .xorRM _ _ | .xorMI _ _ => true
  | .skt _ _ | .skf _ _ | .ske _ _ | .skne _ _ | .skge _ _ | .sklt _ _ => true
  | .rorc _ | .ld _ _ | .st _ _ | .movIndM _ _ | .movMInd _ _ | .movMI _ _ | .movt => true
  | .pushAR | .popAR | .peek _ | .poke _ | .get _ | .put _ => true
  | .brAR | .callAR | .ret | .retsk | .reti | .ei | .di | .stop _ | .halt _ | .nop => true

end Sys2Proof
end

