-- ==== Sys2Proof/Decode.lean ====
section
/-! DEFINITION. Decoding (R155: total, every fixed bit compared, rejecting by name) and encoding (R151, R152), both
written from the opcode map R153 and the sub-opcode map R154. -/
namespace Sys2Proof

/-- Why a word is no instruction, one name for each case of R157. -/
inductive DecodeError where
  /-- R157 (a): the primary opcode is 01101, 01110, 01111 or 10111. -/
  | unassignedOpcode
  /-- R157 (b): under opcode 00111 the sub-opcode is 0000 or 0110. -/
  | unassignedSubOpcode
  /-- R157 (c): a field that every instruction of this sub-opcode fixes has another value. -/
  | fixedFieldMismatch
  /-- R157 (d), R163: bit 10 of the operand of BR or CALL is 1. -/
  | branchOperandBit10
deriving DecidableEq, Repr

/-- Bits 15 to 11 of a word: the primary opcode (R150, R153). -/
def Word.op (w : Word) : BitVec 5 := w.extractLsb' 11 5
/-- Bits 10 to 8 of a word: mR, rfR, pH or the fixed field f1 (R150). -/
def Word.f1 (w : Word) : BitVec 3 := w.extractLsb' 8 3
/-- Bits 7 to 4 of a word: mC or the sub-opcode (R150, R154). -/
def Word.f2 (w : Word) : BitVec 4 := w.extractLsb' 4 4
/-- Bits 3 to 0 of a word: r, n4, n, rfC, pL, s, h or the fixed field f3 (R150). -/
def Word.f3 (w : Word) : BitVec 4 := w.extractLsb' 0 4
/-- The operand `m = mR : mC` (R161). -/
def Word.fieldM (w : Word) : DataAddr := w.extractLsb' 4 7
/-- The operands `rf = rfR : rfC` and `p = pH : pL` (R165, R166). -/
def Word.fieldRf (w : Word) : DataAddr := w.f1 ++ w.f3
/-- The 11-bit operand `addr` of format AD (R163). -/
def Word.fieldAddr (w : Word) : BranchOperand := w.extractLsb' 0 11

/-- An instruction of format MS whose fields f1 and f3 are both fixed (R154, R157 (c)). -/
def decodeFixed (w : Word) (f1 : BitVec 3) (f3 : BitVec 4) (i : Instr) : Except DecodeError Instr :=
  if w.f1 = f1 ∧ w.f3 = f3 then .ok i else .error .fixedFieldMismatch

/-- Sub-opcode 1110 of opcode 00111: the three returns (R154). -/
def decodeReturn (w : Word) : Except DecodeError Instr :=
  match w.f1.toNat with
  | 0 => decodeFixed w 0 0 .ret
  | 1 => decodeFixed w 1 0 .retsk
  | 4 => decodeFixed w 4 0 .reti
  | _ => .error .fixedFieldMismatch

/-- Sub-opcode 1111 of opcode 00111: EI, DI, STOP, HALT, NOP (R154). -/
def decodeControl (w : Word) : Except DecodeError Instr :=
  match w.f1.toNat with
  | 0 => decodeFixed w 0 0 .ei
  | 1 => decodeFixed w 1 0 .di
  | 2 => .ok (.stop w.f3)
  | 3 => .ok (.halt w.f3)
  | 4 => decodeFixed w 4 0 .nop
  | _ => .error .fixedFieldMismatch

/-- The instructions of format MS, primary opcode 00111, by sub-opcode (R154). -/
def decodeMS (w : Word) : Except DecodeError Instr :=
  match w.f2.toNat with
  | 0x1 => decodeFixed w 0 0 .movt
  | 0x2 => .ok (.poke w.fieldRf)
  | 0x3 => .ok (.peek w.fieldRf)
  | 0x4 => decodeFixed w 0 0 .brAR
  | 0x5 => decodeFixed w 0 0 .callAR
  | 0x7 => if w.f1 = 0 then .ok (.rorc w.f3) else .error .fixedFieldMismatch
  | 0x8 => decodeFixed w 0 0 .incIX
  | 0x9 => decodeFixed w 0 0 .incAR
  | 0xA => .ok (.put w.fieldRf)
  | 0xB => .ok (.get w.fieldRf)
  | 0xC => decodeFixed w 0 0 .popAR
  | 0xD => decodeFixed w 0 0 .pushAR
  | 0xE => decodeReturn w
  | 0xF => decodeControl w
  | _ => .error .unassignedSubOpcode

/-- An instruction of format AD (R163, R157 (d)). -/
def decodeAD (w : Word) (i : BranchOperand → Instr) : Except DecodeError Instr :=
  if w.fieldAddr.getLsbD 10 then .error .branchOperandBit10 else .ok (i w.fieldAddr)

/-- R155: the instruction a word stands for, by its primary opcode (R153); any other word is rejected by name. -/
def decode (w : Word) : Except DecodeError Instr :=
  match w.op.toNat with
  | 0x00 => .ok (.addRM w.f3 w.fieldM)
  | 0x01 => .ok (.subRM w.f3 w.fieldM)
  | 0x02 => .ok (.addcRM w.f3 w.fieldM)
  | 0x03 => .ok (.subcRM w.f3 w.fieldM)
  | 0x04 => .ok (.andRM w.f3 w.fieldM)
  | 0x05 => .ok (.xorRM w.f3 w.fieldM)
  | 0x06 => .ok (.orRM w.f3 w.fieldM)
  | 0x07 => decodeMS w
  | 0x08 => .ok (.ld w.f3 w.fieldM)
  | 0x09 => .ok (.ske w.fieldM w.f3)
  | 0x0A => .ok (.movIndM w.f3 w.fieldM)
  | 0x0B => .ok (.skne w.fieldM w.f3)
  | 0x0C => decodeAD w .br
  | 0x10 => .ok (.addMI w.fieldM w.f3)
  | 0x11 => .ok (.subMI w.fieldM w.f3)
  | 0x12 => .ok (.addcMI w.fieldM w.f3)
  | 0x13 => .ok (.subcMI w.fieldM w.f3)
  | 0x14 => .ok (.andMI w.fieldM w.f3)
  | 0x15 => .ok (.xorMI w.fieldM w.f3)
  | 0x16 => .ok (.orMI w.fieldM w.f3)
  | 0x18 => .ok (.st w.fieldM w.f3)
  | 0x19 => .ok (.skge w.fieldM w.f3)
  | 0x1A => .ok (.movMInd w.fieldM w.f3)
  | 0x1B => .ok (.sklt w.fieldM w.f3)
  | 0x1C => decodeAD w .call
  | 0x1D => .ok (.movMI w.fieldM w.f3)
  | 0x1E => .ok (.skt w.fieldM w.f3)
  | 0x1F => .ok (.skf w.fieldM w.f3)
  | _ => .error .unassignedOpcode

/-- The word of formats RM and MI: opcode, mR, mC, and r, n4 or n (R151). -/
def encodeM (op : BitVec 5) (m : DataAddr) (f3 : BitVec 4) : Word := op ++ m ++ f3

/-- The word of format MS under the primary opcode 00111 (R151, R154). -/
def encodeMS (f1 : BitVec 3) (sub f3 : BitVec 4) : Word := 0x07#5 ++ f1 ++ sub ++ f3

/-- The word of PEEK, POKE, GET and PUT: the 7-bit address split around the sub-opcode (R165, R166). -/
def encodeRf (sub : BitVec 4) (a : DataAddr) : Word := encodeMS (a.extractLsb' 4 3) sub (a.extractLsb' 0 4)

/-- The word of format AD (R151, R163). -/
def encodeAD (op : BitVec 5) (addr : BranchOperand) : Word := op ++ addr

/-- The word of an instruction (R152). -/
def encode : Instr → Word
  | .addRM r m => encodeM 0x00 m r
  | .addMI m n4 => encodeM 0x10 m n4
  | .addcRM r m => encodeM 0x02 m r
  | .addcMI m n4 => encodeM 0x12 m n4
  | .incAR => encodeMS 0 0x9 0
  | .incIX => encodeMS 0 0x8 0
  | .subRM r m => encodeM 0x01 m r
  | .subMI m n4 => encodeM 0x11 m n4
  | .subcRM r m => encodeM 0x03 m r
  | .subcMI m n4 => encodeM 0x13 m n4
  | .orRM r m => encodeM 0x06 m r
  | .orMI m n4 => encodeM 0x16 m n4
  | .andRM r m => encodeM 0x04 m r
  | .andMI m n4 => encodeM 0x14 m n4
  | .xorRM r m => encodeM 0x05 m r
  | .xorMI m n4 => encodeM 0x15 m n4
  | .skt m n => encodeM 0x1E m n
  | .skf m n => encodeM 0x1F m n
  | .ske m n4 => encodeM 0x09 m n4
  | .skne m n4 => encodeM 0x0B m n4
  | .skge m n4 => encodeM 0x19 m n4
  | .sklt m n4 => encodeM 0x1B m n4
  | .rorc r => encodeMS 0 0x7 r
  | .ld r m => encodeM 0x08 m r
  | .st m r => encodeM 0x18 m r
  | .movIndM r m => encodeM 0x0A m r
  | .movMInd m r => encodeM 0x1A m r
  | .movMI m n4 => encodeM 0x1D m n4
  | .movt => encodeMS 0 0x1 0
  | .pushAR => encodeMS 0 0xD 0
  | .popAR => encodeMS 0 0xC 0
  | .peek rf => encodeRf 0x3 rf
  | .poke rf => encodeRf 0x2 rf
  | .get p => encodeRf 0xB p
  | .put p => encodeRf 0xA p
  | .br addr => encodeAD 0x0C addr
  | .brAR => encodeMS 0 0x4 0
  | .call addr => encodeAD 0x1C addr
  | .callAR => encodeMS 0 0x5 0
  | .ret => encodeMS 0 0xE 0
  | .retsk => encodeMS 1 0xE 0
  | .reti => encodeMS 4 0xE 0
  | .ei => encodeMS 0 0xF 0
  | .di => encodeMS 1 0xF 0
  | .stop s => encodeMS 2 0xF s
  | .halt h => encodeMS 3 0xF h
  | .nop => encodeMS 4 0xF 0

/-- The instruction the decoder reads from the table's bits `w` of a row. Every instruction is one 16-bit word (R150),
so `nbits` is 16 for every row, bit 0 is b0, and there are no bits above it. -/
def decodeTableWord (_nbits w : Nat) : Option Instr := (decode (BitVec.ofNat 16 w)).toOption

end Sys2Proof
end

