-- ==== Sys2Proof/Config.lean ====
section
/-! DEFINITION. What an implementation fixes: the part (R6), the three readings the spec leaves open as parameters
(92 OPEN-1 to OPEN-3), and the values nobody fixes (93 sections 2 and 3), which are constants without a body. -/
namespace Sys2Proof

/-- The six members of the subseries (R1, R6). -/
inductive Part where
  | uPD17120 | uPD17121 | uPD17132 | uPD17133 | uPD17P132 | uPD17P133
deriving DecidableEq, Repr

/-- `ROM_LAST` of R6: the last mounted program address. -/
def Part.romLast : Part → Nat
  | .uPD17120 | .uPD17121 => 0x2FF
  | .uPD17132 | .uPD17133 | .uPD17P132 | .uPD17P133 => 0x3FF

/-- `RAM_LAST` of R6: the last mounted address of general data memory. -/
def Part.ramLast : Part → Nat
  | .uPD17120 | .uPD17121 => 0x3F
  | .uPD17132 | .uPD17133 | .uPD17P132 | .uPD17P133 => 0x6E

/-- `HAS_COMPARATOR` of R6. -/
def Part.hasComparator : Part → Bool
  | .uPD17120 | .uPD17121 => false
  | .uPD17132 | .uPD17133 | .uPD17P132 | .uPD17P133 => true

/-- `CMP_CYCLES` of R6: the instruction cycles one comparison takes (not applicable, here 0, without a comparator). -/
def Part.cmpCycles : Part → Nat
  | .uPD17120 | .uPD17121 => 0
  | .uPD17132 | .uPD17P132 => 2
  | .uPD17133 | .uPD17P133 => 6

/-- `STACKFAULT_CTRL` (OPEN-1, R92): what TMEN, IRQTM, CMPVREF3 and CMPRSLT hold after a stack fault reset. -/
inductive StackFaultCtrl where
  | asPinReset | allZero
deriving DecidableEq, Repr

/-- `P0E_INPUT_WRITE` (OPEN-3, R390): whether a write to 6FH reaches the latch bit of a pin in input mode. -/
inductive P0eInputWrite where
  | ignored | latched
deriving DecidableEq, Repr

/-- The place inside one instruction slot at which a value the spec calls unpredictable or undefined is drawn
(93 sections 2 and 3), so that two draws of one slot have different names. -/
inductive Draw where
  /-- the read of the first operand of an instruction (R108, R387) -/
  | first
  /-- the read of the second operand, or of the moved nibble (R108, R387) -/
  | second
  /-- the column of an indirect address (R108, R117) -/
  | column
  /-- the location PEEK reads (R81, R108) -/
  | window
  /-- GET of a write-only or unassigned peripheral address (R133) -/
  | peripheral
  /-- PUT SIOSFR during a transfer (R432) -/
  | shiftRegister
  /-- the SO latch in receive mode (R438) -/
  | soLatch
  /-- the result of a comparison that standby disturbed (R426) -/
  | comparison
  /-- a nibble of data memory a reset leaves undefined (R92) -/
  | resetRam (a : Nat)
  /-- a port output latch after a stack fault reset (R92); 0 to 4 stand for ports A to E -/
  | resetLatch (n : Nat)
  /-- WR after a reset (R40, R92) -/
  | resetWr
  /-- SIOSFR after a reset (R82, R92) -/
  | resetShiftRegister
  /-- TMC after a stack fault reset (R92) -/
  | resetTimer
  /-- an address stack register after a reset (R28) -/
  | resetStack (n : Nat)
  /-- INTSK after a reset (R30) -/
  | resetIntsk
  /-- the phase of the timer prescaler after a reset (R83) -/
  | resetPrescaler
  /-- the phase of the serial clock divider after a reset (R431) -/
  | resetDivider
deriving DecidableEq, Repr

/-- The free values (R12 `unpredictable(N)`, log entry 1): the value drawn in an instruction slot at a site of it. It
has no body: nothing constrains it. -/
opaque Config.free (slot : Nat) (site : Draw) (width : Nat) : BitVec width

/-- The nominal length, in slots, of the wait after a STOP release when the count clock is the external one: R365 does
not state the divisor m for it (log entry 2). -/
opaque Config.externalStopWait (slot : Nat) : Nat

end Sys2Proof
end

