-- ==== Sys2Proof/Machine/State.lean ====
section
/-! DEFINITION. The state of the machine as plain data (R94: every item of chapters 1 to 8 of 10_state.md), the host's
inputs (R90, R492), the reasons to stop, and the state right after reset (R92, R462, R463). INVENTORY.md lists every
field with the rule that names it and its reset value. -/
namespace Sys2Proof.Machine

/-- Why the machine stops. -/
inductive Fault where
  /-- R118, 93 section 5: an instruction of Table 7-1 executed while IXE = 1 and MPE = 1 ("Setting disabled"): the run is
  stuck. Raised by `tableGuard`. Safe: the model stops where the hardware does something nobody describes. -/
  | settingDisabled
deriving DecidableEq, Repr

/-- Why the model refuses an instruction. -/
inductive Refusal where
  /-- An instruction this model gives no meaning (none is left: no arm of `exec` raises it). Safe. -/
  | notModelled (mnemonic : String)
  /-- R157, R163, 93 section 4: the fetched word is none of the defined words, or BR or CALL with operand bit 10 set.
  Raised by the step and by the meanings of BR and CALL. Safe. -/
  | undefinedEncoding
  /-- R310, R311, 93 section 4: STOP or HALT with a bit the manual fixes to 0. Raised by their meanings. Safe. -/
  | reservedStandbyCondition
  /-- R403, 93 section 4: PUT TMM with DBF1 : DBF0 = 00H. Raised by the meaning of PUT. Safe. -/
  | timerModuloZero
  /-- R430, 93 section 4: SIOTS written 1 while SIOEN = 0, or SIOEN cleared while SIOTS = 1. Raised by the meaning of
  POKE. Safe. -/
  | serialEnableMisuse
deriving DecidableEq, Repr

/-- What one step or one meaning answers. -/
abbrev Answer (σ : Type) := Host.Outcome σ Fault Refusal

/-- The chip: the part, and the three readings the spec leaves open (R6, 92 OPEN-1 to OPEN-3). No instruction writes it. -/
structure Chip where
  part : Part
  stackFaultCtrl : StackFaultCtrl
  stopWaitSetsIrqtm : Bool
  p0eInputWrite : P0eInputWrite
deriving DecidableEq, Repr

/-- The five flags of PSWORD (R47), also the contents of INTSK (R30). -/
structure Psword where
  bcd : Bool
  cmp : Bool
  cy : Bool
  z : Bool
  ixe : Bool
deriving DecidableEq, Repr

/-- The five ports (R55, R71, R72, R74 to R77): output latches, input/output modes, the input port disable flags of
port 0C. -/
structure Ports where
  latchA : BitVec 4
  latchB : BitVec 4
  latchC : BitVec 4
  latchD : BitVec 4
  latchE : BitVec 2
  abio : BitVec 4
  bgio : Bool
  cbio : BitVec 4
  dbio : BitVec 4
  ebio : BitVec 2
  cidi : BitVec 4
deriving DecidableEq, Repr

/-- The timer (R64, R65, R82, R83): mode register, count and modulo registers, prescaler, output flip-flop. -/
structure Timer where
  tmen : Bool
  tmck : BitVec 2
  tmosel : Bool
  tmc : BitVec 8
  tmm : BitVec 8
  presc : BitVec 11
  tmout : Bool
deriving DecidableEq, Repr

/-- The serial interface (R61, R66, R82, R84): enable, mode register, shift register, clock counter, armed bit, clock
divider, previous SCK level. `retained` is the model's own: SIOSFR when the last HALT or STOP entered its standby mode,
which a reset in that mode gives back (R93, log entry 29). -/
structure Serial where
  sioen : Bool
  siots : Bool
  siohiz : Bool
  siock : BitVec 2
  siosfr : BitVec 8
  count : BitVec 3
  armed : Bool
  sdiv : BitVec 10
  sckPrev : Bool
  retained : BitVec 8
deriving DecidableEq, Repr

/-- The comparator (R67 to R69, R84). `disturbed` is the model's own: HALT interrupted the comparison in progress, whose
result is then undefined (R426). -/
structure Comparator where
  ch : BitVec 2
  vref : BitVec 4
  strt : Bool
  rslt : Bool
  busy : Nat
  disturbed : Bool
deriving DecidableEq, Repr

/-- One bit for each interrupt source: SIO, timer, INT pin (the request flags R78 to R80, the enable flags R73, and the
two delayed views of R95). -/
structure IrqBits where
  sio : Bool
  tm : Bool
  pin : Bool
deriving DecidableEq, Repr

/-- Which oscillation stabilization wait is running (R463 after a reset, R365 after STOP). -/
inductive WaitKind where
  | afterReset | afterStop
deriving DecidableEq, Repr

/-- The operating mode (R87); `left` is the number of slots the wait still takes. -/
inductive Mode where
  | run
  | halt (h : BitVec 4)
  | stop (s : BitVec 4)
  | wait (kind : WaitKind) (left : Nat)
deriving DecidableEq, Repr

/-- The levels at the input pins (R90), 1 for high; `cmpHigher`: the selected Cin is above the selected reference
(R422). -/
structure Pins where
  reset : Bool
  int : Bool
  a : BitVec 4
  b : BitVec 4
  c : BitVec 4
  d : BitVec 4
  e : BitVec 2
  cmpHigher : Bool
deriving DecidableEq, Repr

/-- The supply events of R90 and R462. -/
inductive PowerEvent where
  | powerOn | powerDown
deriving DecidableEq, Repr

/-- What the host does during one instruction slot (R492): RESET levels, supply event, INT levels and P0D levels (SCK
and SI are bits 0 and 2) in time order, new levels of the other ports, the comparator's answer, and whether it prolongs
a stabilization wait by this slot (R365, D16). -/
structure HostSlot where
  resetLevels : List Bool
  power : Option PowerEvent
  intLevels : List Bool
  dLevels : List (BitVec 4)
  a : Option (BitVec 4)
  b : Option (BitVec 4)
  c : Option (BitVec 4)
  e : Option (BitVec 2)
  cmpHigher : Option Bool
  prolongWait : Bool
deriving DecidableEq, Repr

/-- The state of the machine (R94), with the host's inputs still to come (R492) and the model's own counter `slot` that
names the free values of the current slot (log entry 1). -/
structure State where
  chip : Chip
  pc : BitVec 10
  skipNext : Bool
  sp : BitVec 3
  asr : Vector (BitVec 10) 5
  intsk : Psword
  ar : BitVec 10
  wr : BitVec 4
  mpe : Bool
  ix : BitVec 7
  rprow : BitVec 3
  psw : Psword
  ram : List Host.Cell
  rom : List (Nat × BitVec 16)
  ports : Ports
  pdresen : Bool
  iegmd : BitVec 2
  timer : Timer
  serial : Serial
  comparator : Comparator
  req : IrqBits
  en : IrqBits
  irqSeen : IrqBits
  irqLast : IrqBits
  inte : Bool
  eiDelay : BitVec 2
  mode : Mode
  intPrev : Bool
  pins : Pins
  inputs : List HostSlot
  slot : Nat
deriving DecidableEq, Repr

/-- All five flags 0: PSWORD after reset and after interrupt acceptance (R47, R338). -/
def Psword.clear : Psword := ⟨false, false, false, false, false⟩

/-- No request, no enable (R73, R78, R80). -/
def IrqBits.none : IrqBits := ⟨false, false, false⟩

/-- The machine right after a pin reset and its stabilization wait (R92 column PinReset, R462, R463): every field the
spec states at that value, every register it leaves undefined at the value log entry 3 names, the pins at the levels log
entry 4 names, memory with nothing listed, no input waiting. -/
def State.reset : State where
  chip := ⟨.uPD17132, .asPinReset, true, .ignored⟩
  pc := 0
  skipNext := false
  sp := 5
  asr := Vector.replicate 5 0
  intsk := .clear
  ar := 0
  wr := 0
  mpe := false
  ix := 0
  rprow := 0
  psw := .clear
  ram := []
  rom := []
  ports := ⟨0, 0, 0, 0, 0, 0, false, 0, 0, 0, 0⟩
  pdresen := false
  iegmd := 0
  timer := { tmen := true, tmck := 0, tmosel := false, tmc := 0, tmm := 0xFF, presc := 0, tmout := true }
  serial := { sioen := false, siots := false, siohiz := false, siock := 0, siosfr := 0, count := 0, armed := false,
              sdiv := 0, sckPrev := false, retained := 0 }
  comparator := { ch := 0, vref := 8, strt := false, rslt := true, busy := 0, disturbed := false }
  req := ⟨false, true, false⟩
  en := .none
  irqSeen := ⟨false, true, false⟩
  irqLast := ⟨false, true, false⟩
  inte := false
  eiDelay := 0
  mode := .run
  intPrev := false
  pins := { reset := true, int := false, a := 0, b := 0, c := 0, d := 0, e := 3, cmpHigher := false }
  inputs := []
  slot := 0

end Sys2Proof.Machine
end

