-- ==== Sys2Proof/Machine/Bits.lean ====
section
/-! DEFINITION. Bit helpers: a nibble from its bits, PSWORD as bits (R30, R47), and the bitwise choice between two
nibbles. -/
namespace Sys2Proof.Machine

/-- The nibble `b3 b2 b1 b0`, most significant bit first (R11). -/
def nibble (b3 b2 b1 b0 : Bool) : Nibble :=
  BitVec.ofBool b3 ++ BitVec.ofBool b2 ++ BitVec.ofBool b1 ++ BitVec.ofBool b0

/-- The nibble whose bit `n` is `f n`. -/
def nibbleOf (f : Nat → Bool) : Nibble := nibble (f 3) (f 2) (f 1) (f 0)

/-- A flag alone in bit 0 of its nibble, bits 3 to 1 fixed 0 (R60). -/
def flagNibble (b : Bool) : Nibble := nibble false false false b

/-- A 2-bit field in bits 1 and 0 of its nibble, bits 3 and 2 fixed 0 (R60). -/
def lowPair (v : BitVec 2) : Nibble := nibble false false (v.getLsbD 1) (v.getLsbD 0)

/-- PSWORD = BCD : CMP : CY : Z : IXE (R30, R47). -/
def Psword.ofBits (v : BitVec 5) : Psword :=
  ⟨v.getLsbD 4, v.getLsbD 3, v.getLsbD 2, v.getLsbD 1, v.getLsbD 0⟩

end Sys2Proof.Machine
end

