-- ==== Sys2Proof/Machine/Ports.lean ====
section
/-! DEFINITION. The five ports as registers and as pins (R91, R380 to R392): who drives a pin, the level on it, what a
read of the port register returns, what a write reaches. -/
namespace Sys2Proof.Machine

/-- The ports 0A to 0E. -/
inductive Port where
  | a | b | c | d | e
deriving DecidableEq, Repr

/-- How the chip drives a pin (R91, R380): not at all, push-pull with a level, or open drain with a driving bit (low when
the bit is 0, released when it is 1). -/
inductive PinDrive where
  | input
  | pushPull (level : Bool)
  | openDrain (bit : Bool)
deriving DecidableEq, Repr

/-- What a read of a port register takes a bit from (R380, Table 12-6 in R387). -/
inductive ReadSource where
  | latch | pin | undefined
deriving DecidableEq, Repr

/-- The output latch of a port (R55); port 0E has bits 1 and 0 only. -/
def portLatch (s : State) : Port → Nibble
  | .a => s.ports.latchA
  | .b => s.ports.latchB
  | .c => s.ports.latchC
  | .d => s.ports.latchD
  | .e => lowPair s.ports.latchE

/-- The levels the host puts on the pins of a port (R90). -/
def hostLevel (s : State) : Port → Nibble
  | .a => s.pins.a
  | .b => s.pins.b
  | .c => s.pins.c
  | .d => s.pins.d
  | .e => lowPair s.pins.e

/-- The output mode bit of pin `n` (R72, R74 to R77): 1 for output. -/
def outputMode (s : State) (p : Port) (n : Nat) : Bool :=
  match p with
  | .a => s.ports.abio.getLsbD n
  | .b => s.ports.bgio
  | .c => s.ports.cbio.getLsbD n
  | .d => s.ports.dbio.getLsbD n
  | .e => s.ports.ebio.getLsbD n

/-- The divisor of the internal serial clock in system clocks (R431); 0 when the clock is external. -/
def serialDivisor (siock : BitVec 2) : Nat :=
  match siock.toNat with
  | 1 => 16
  | 2 => 128
  | 3 => 1024
  | _ => 0

/-- The level the chip puts on SCK with an internal serial clock (R431, log entry 20): high when idle and until the
first falling edge of a transfer, then low in the first half of the divider's period. -/
def sckOutput (s : State) : Bool :=
  !(s.serial.siots && s.serial.armed &&
    decide (s.serial.sdiv.toNat % serialDivisor s.serial.siock < serialDivisor s.serial.siock / 2))

/-- An open-drain port pin: driven by its latch bit in output mode (R91). -/
def openDrainPort (s : State) (p : Port) (n : Nat) : PinDrive :=
  if outputMode s p n then .openDrain ((portLatch s p).getLsbD n) else .input

/-- Who drives pin `n` of port 0D (R387). -/
def driveD (s : State) (n : Nat) : PinDrive :=
  match n with
  | 0 =>
    if s.serial.sioen then
      if s.serial.siock = 0 then .input else .openDrain (sckOutput s)
    else openDrainPort s .d 0
  | 1 =>
    if s.serial.sioen then
      if s.serial.siohiz then .input else .openDrain (s.ports.latchD.getLsbD 1)
    else openDrainPort s .d 1
  | 2 => if s.serial.sioen then .input else openDrainPort s .d 2
  | 3 => if s.timer.tmosel then .openDrain s.timer.tmout else openDrainPort s .d 3
  | _ => .input

/-- Who drives pin `n` of a port (R91, R380). -/
def drive (s : State) (p : Port) (n : Nat) : PinDrive :=
  match p with
  | .a | .b | .c => if outputMode s p n then .pushPull ((portLatch s p).getLsbD n) else .input
  | .d => driveD s n
  | .e => openDrainPort s .e n

/-- `PinLevel(X, n)` of R380. -/
def pinLevel (s : State) (p : Port) (n : Nat) : Bool :=
  match drive s p n with
  | .input => (hostLevel s p).getLsbD n
  | .pushPull level => level
  | .openDrain false => false
  | .openDrain true => (hostLevel s p).getLsbD n

/-- The read source of an ordinary port bit: the latch in output mode, else the pin (R380). -/
def portSource (s : State) (p : Port) (n : Nat) : ReadSource :=
  if outputMode s p n then .latch else .pin

/-- The read source of bit `n` of a port register (R381 to R390, Table 12-6). -/
def readSource (s : State) (p : Port) (n : Nat) : ReadSource :=
  match p, n with
  | .d, 0 =>
    if s.serial.sioen then
      if s.serial.siock = 0 then .pin else .latch
    else portSource s .d 0
  | .d, 1 =>
    if s.serial.sioen then
      if s.serial.siohiz then .pin else .undefined
    else portSource s .d 1
  | .d, 2 => if s.serial.sioen then .pin else portSource s .d 2
  | .d, 3 => if s.timer.tmosel then .latch else portSource s .d 3
  | .e, _ => .pin
  | p, n => portSource s p n

/-- Bit `n` of what a read of a port register returns; an undefined bit is drawn at the reading site (R380, R387). -/
def portBit (s : State) (site : Draw) (p : Port) (n : Nat) : Bool :=
  match readSource s p n with
  | .latch => (portLatch s p).getLsbD n
  | .pin => pinLevel s p n
  | .undefined => (Config.free s.slot site 1).getLsbD 0

/-- `PortRead` (R380, R390: bits 3 and 2 of port 0E read 0). -/
def portRead (s : State) (site : Draw) (p : Port) : Nibble :=
  match p with
  | .e => nibble false false (portBit s site .e 1) (portBit s site .e 0)
  | p => nibbleOf (portBit s site p)

/-- Bit `n` of the port 0E latch after a write of `v` (R390): reached in output mode, in input mode only under the open
parameter `P0E_INPUT_WRITE = latched`. -/
def latchEBit (s : State) (v : Nibble) (n : Nat) : Bool :=
  if s.ports.ebio.getLsbD n || s.chip.p0eInputWrite == .latched then v.getLsbD n else s.ports.latchE.getLsbD n

/-- `PortWrite` (R380, R390): a write goes to the latch whatever the mode; port 0E by `latchEBit`. -/
def portWrite (s : State) (p : Port) (v : Nibble) : State :=
  match p with
  | .a => { s with ports := { s.ports with latchA := v } }
  | .b => { s with ports := { s.ports with latchB := v } }
  | .c => { s with ports := { s.ports with latchC := v } }
  | .d => { s with ports := { s.ports with latchD := v } }
  | .e => { s with ports := { s.ports with
              latchE := BitVec.ofBool (latchEBit s v 1) ++ BitVec.ofBool (latchEBit s v 0) } }

end Sys2Proof.Machine
end

