-- ==== Sys2Proof/Machine/Cells.lean ====
section
/-! DEFINITION. Sparse memory in one canonical form: a list of (address, value) pairs with strictly rising addresses, in
which no entry equals the value an unlisted address reads as. Data memory keeps a nibble as the byte of a `Host.Cell`
(log entry 5); program memory keeps 16-bit words (log entry 6). -/
namespace Sys2Proof.Machine

/-- The value at address `a`; `dflt` where nothing is listed. -/
def cellRead {w : Nat} (dflt : BitVec w) : List (Nat × BitVec w) → Nat → BitVec w
  | [], _ => dflt
  | (b, v) :: rest, a => if b = a then v else cellRead dflt rest a

/-- The list with nothing at address `a`. -/
def cellErase {w : Nat} (a : Nat) : List (Nat × BitVec w) → List (Nat × BitVec w)
  | [] => []
  | (b, u) :: rest => if b = a then cellErase a rest else (b, u) :: cellErase a rest

/-- The list with `v` in its place at address `a`. -/
def cellInsert {w : Nat} (a : Nat) (v : BitVec w) : List (Nat × BitVec w) → List (Nat × BitVec w)
  | [] => [(a, v)]
  | (b, u) :: rest =>
    if a < b then (a, v) :: (b, u) :: rest
    else if a = b then (a, v) :: rest
    else (b, u) :: cellInsert a v rest

/-- The memory with `v` at address `a`, in canonical form: writing `dflt` removes the entry. -/
def cellWrite {w : Nat} (dflt : BitVec w) (a : Nat) (v : BitVec w) (mem : List (Nat × BitVec w)) :
    List (Nat × BitVec w) :=
  if v = dflt then cellErase a mem else cellInsert a v mem

/-- The canonical form, from address `lo` on and up to address `last`. -/
def Memory.wfFrom {w : Nat} (dflt : BitVec w) (last lo : Nat) : List (Nat × BitVec w) → Bool
  | [] => true
  | (a, v) :: rest => decide (lo ≤ a) && decide (a ≤ last) && decide (v ≠ dflt) && Memory.wfFrom dflt last (a + 1) rest

/-- The canonical form of a memory whose last address is `last`. -/
def Memory.wf {w : Nat} (dflt : BitVec w) (last : Nat) (mem : List (Nat × BitVec w)) : Bool :=
  Memory.wfFrom dflt last 0 mem

/-- What a nibble of data memory that nothing has written reads as (log entry 5). -/
def ramDefault : BitVec 8 := 0

/-- What a word of program memory that nothing has written reads as: FFFFH, the blank word of R470 (log entry 6), and
also what unmounted program memory reads as (R101). -/
def romDefault : Word := 0xFFFF

/-- `RAM[a]` of R110. -/
def ramRead (ram : List Host.Cell) (a : Nat) : Nibble := (cellRead ramDefault ram a).setWidth 4

/-- `RAM[a] <- v` of R110. -/
def ramWrite (a : Nat) (v : Nibble) (ram : List Host.Cell) : List Host.Cell :=
  cellWrite ramDefault a (v.setWidth 8) ram

/-- `RomRead(a)` (R101): the stored word, or FFFFH beyond the mounted program memory. -/
def romRead (s : State) (a : CodeAddr) : Word :=
  if a.toNat ≤ s.chip.part.romLast then cellRead romDefault s.rom a.toNat else romDefault

end Sys2Proof.Machine
end

