-- ==== Sys2Proof/Machine/Reset.lean ====
section
/-! DEFINITION. The three columns of the reset table (R92) as operations on a running machine. What a column calls
undefined or the spec does not state is a free value drawn at the reset (93 section 3). -/
namespace Sys2Proof.Machine

/-- Data memory with a free nibble at every address of the list (93 section 3). -/
def drawRam (slot : Nat) (addrs : List Nat) (ram : List Host.Cell) : List Host.Cell :=
  addrs.foldl (fun acc a => ramWrite a (Config.free slot (.resetRam a) 4) acc) ram

/-- The addresses of the data buffer DBF3 to DBF0 (R52). -/
def dbfAddrs : List Nat := [0x0C, 0x0D, 0x0E, 0x0F]

/-- What the three columns of R92 have in common. `ctrl` is the value of TMEN, IRQTM, CMPVREF3 and CMPRSLT; the latches,
WR, SIOSFR, data memory other than DBF, and the mode are kept for the column to set. -/
def resetCommon (ctrl : Bool) (s : State) : State :=
  { s with
    pc := 0
    skipNext := false
    sp := 5
    asr := Vector.ofFn fun i => Config.free s.slot (.resetStack i) 10
    intsk := Psword.ofBits (Config.free s.slot .resetIntsk 5)
    ar := 0
    mpe := false
    ix := 0
    rprow := 0
    psw := .clear
    ram := drawRam s.slot dbfAddrs s.ram
    ports := { s.ports with abio := 0, bgio := false, cbio := 0, dbio := 0, ebio := 0, cidi := 0 }
    pdresen := false
    iegmd := 0
    timer := { tmen := ctrl, tmck := 0, tmosel := false, tmc := 0, tmm := 0xFF,
               presc := Config.free s.slot .resetPrescaler 11, tmout := true }
    serial := { sioen := false, siots := false, siohiz := false, siock := 0, siosfr := s.serial.siosfr, count := 0,
                armed := false, sdiv := Config.free s.slot .resetDivider 10, sckPrev := s.pins.d.getLsbD 0,
                retained := s.serial.retained }
    comparator := { ch := 0, vref := nibble ctrl false false false, strt := false, rslt := ctrl, busy := 0,
                    disturbed := false }
    req := ⟨false, ctrl, false⟩
    en := .none
    irqSeen := ⟨false, ctrl, false⟩
    irqLast := ⟨false, ctrl, false⟩
    inte := false
    eiDelay := 0
    intPrev := s.pins.int }

/-- The output latches all 0 (R92 columns PinReset and PinResetStandby). -/
def Ports.clearLatches (p : Ports) : Ports := { p with latchA := 0, latchB := 0, latchC := 0, latchD := 0, latchE := 0 }

/-- SIOSFR noted for a reset in standby, by the HALT or STOP that enters it (R93, log entry 29). -/
def retainShiftRegister (s : State) : State := { s with serial := { s.serial with retained := s.serial.siosfr } }

/-- Column PinResetStandby of R92: data memory other than DBF, WR and SIOSFR retained, SIOSFR at its value when the HALT
or STOP was executed (R93): a transfer may have shifted it since. The caller sets the mode. -/
def pinResetStandby (s : State) : State :=
  let t := resetCommon true s
  { t with
    ports := t.ports.clearLatches
    serial := { t.serial with siosfr := s.serial.retained } }

/-- All of data memory free (R92 "Undefined"). -/
def undefinedRam (s : State) : List Host.Cell := drawRam s.slot (List.range (s.chip.part.ramLast + 1)) []

/-- Column PinReset of R92. The caller sets the mode. -/
def pinReset (s : State) : State :=
  let t := pinResetStandby s
  { t with
    ram := undefinedRam s
    wr := Config.free s.slot .resetWr 4
    serial := { t.serial with siosfr := Config.free s.slot .resetShiftRegister 8 } }

/-- Column StackFaultReset of R92 (R321, R464): the latches, data memory, WR, SIOSFR and TMC undefined, the four bits by
`STACKFAULT_CTRL`, no stabilization wait. -/
def stackFaultReset (s : State) : State :=
  let t := resetCommon (s.chip.stackFaultCtrl == .asPinReset) s
  { t with
    ram := undefinedRam s
    wr := Config.free s.slot .resetWr 4
    ports := { t.ports with
      latchA := Config.free s.slot (.resetLatch 0) 4
      latchB := Config.free s.slot (.resetLatch 1) 4
      latchC := Config.free s.slot (.resetLatch 2) 4
      latchD := Config.free s.slot (.resetLatch 3) 4
      latchE := Config.free s.slot (.resetLatch 4) 2 }
    timer := { t.timer with tmc := Config.free s.slot .resetTimer 8 }
    serial := { t.serial with siosfr := Config.free s.slot .resetShiftRegister 8 }
    mode := .run }

end Sys2Proof.Machine
end

