-- ==== Sys2Proof/Machine/Ops.lean ====
section
/-! DEFINITION. The shared operations of the meanings: the data memory dispatch (R110, R111), the stack primitives with
the machine's one fault (R29, R321), taking an interrupt (R335 to R338) and returning from one (R299). -/
namespace Sys2Proof.Machine

/-- `SysRead(a)` for a in 74H..7FH (R111). -/
def sysRead (s : State) (a : DataAddr) : Nibble :=
  match a.toNat with
  | 0x75 => nibble false false (s.ar.getLsbD 9) (s.ar.getLsbD 8)
  | 0x76 => s.ar.extractLsb' 4 4
  | 0x77 => s.ar.extractLsb' 0 4
  | 0x78 => s.wr
  | 0x7A => nibble s.mpe false false false
  | 0x7B => 0#1 ++ s.ix.extractLsb' 4 3
  | 0x7C => s.ix.extractLsb' 0 4
  | 0x7E => s.rprow ++ BitVec.ofBool s.psw.bcd
  | 0x7F => nibble s.psw.cmp s.psw.cy s.psw.z s.psw.ixe
  | _ => 0

/-- `SysWrite(a, v)` for a in 74H..7FH (R111): fixed-0 bits take nothing (R45). -/
def sysWrite (s : State) (a : DataAddr) (v : Nibble) : State :=
  match a.toNat with
  | 0x75 => { s with ar := v.extractLsb' 0 2 ++ s.ar.extractLsb' 0 8 }
  | 0x76 => { s with ar := s.ar.extractLsb' 8 2 ++ v ++ s.ar.extractLsb' 0 4 }
  | 0x77 => { s with ar := s.ar.extractLsb' 4 6 ++ v }
  | 0x78 => { s with wr := v }
  | 0x7A => { s with mpe := v.getLsbD 3 }
  | 0x7B => { s with ix := v.extractLsb' 0 3 ++ s.ix.extractLsb' 0 4 }
  | 0x7C => { s with ix := s.ix.extractLsb' 4 3 ++ v }
  | 0x7E => { s with rprow := v.extractLsb' 1 3, psw := { s.psw with bcd := v.getLsbD 0 } }
  | 0x7F => { s with psw := { s.psw with cmp := v.getLsbD 3, cy := v.getLsbD 2, z := v.getLsbD 1, ixe := v.getLsbD 0 } }
  | _ => s

/-- The parts of the data memory map (R106, R110) on the given part. -/
inductive Region where
  | ram | unmounted | port (p : Port) | system
deriving DecidableEq, Repr

/-- The region of a real data memory address (R110). -/
def region (part : Part) (a : DataAddr) : Region :=
  if a.toNat ≤ part.ramLast then .ram
  else if a.toNat ≤ 0x6E then .unmounted
  else match a.toNat with
    | 0x6F => .port .e
    | 0x70 => .port .a
    | 0x71 => .port .b
    | 0x72 => .port .c
    | 0x73 => .port .d
    | _ => .system

/-- `MemRead(a, 4)` (R110); unmounted memory reads a free nibble (R108). -/
def memRead (s : State) (site : Draw) (a : DataAddr) : Nibble :=
  match region s.chip.part a with
  | .ram => ramRead s.ram a.toNat
  | .unmounted => Config.free s.slot site 4
  | .port p => portRead s site p
  | .system => sysRead s a

/-- `MemWrite(a, 4, v)` (R110); unmounted memory takes nothing (R108). -/
def memWrite (s : State) (a : DataAddr) (v : Nibble) : State :=
  match region s.chip.part a with
  | .ram => { s with ram := ramWrite a.toNat v s.ram }
  | .unmounted => s
  | .port p => portWrite s p v
  | .system => sysWrite s a v

/-- The address stack register `ASR[n]` (R28). -/
def asrRead (s : State) (n : BitVec 3) : CodeAddr := (s.asr[n.toNat]?).getD 0

/-- A push faults when the decremented stack pointer is above 4 (R29, R321 (a)). -/
def pushFaults (s : State) : Bool := decide (4 < (s.sp - 1).toNat)

/-- A pop faults when the stack pointer is above 4 (R29, R321 (b)). -/
def popFaults (s : State) : Bool := decide (4 < s.sp.toNat)

/-- `Push(v)` of R29 when it does not fault: decrement, then write. -/
def push (v : CodeAddr) (s : State) : State :=
  { s with sp := s.sp - 1, asr := s.asr.setIfInBounds (s.sp - 1).toNat v }

/-- `Pop()` of R29 when it does not fault: the value is `asrRead s s.sp`, then increment. -/
def pop (s : State) : State := { s with sp := s.sp + 1 }

/-- An instruction that pushes `v` and then acts: a faulting push replaces it by the stack fault reset (R321). -/
def withPush (v : CodeAddr) (s : State) (act : State → State) : Answer State :=
  if pushFaults s then .next (stackFaultReset s) else .next (act (push v s))

/-- An instruction that pops and then acts on the value popped: a faulting pop replaces it by the stack fault reset. -/
def withPop (s : State) (act : CodeAddr → State → State) : Answer State :=
  if popFaults s then .next (stackFaultReset s) else .next (act (asrRead s s.sp) (pop s))

/-- The three interrupt sources (R325). -/
inductive IrqSource where
  | pin | tm | sio
deriving DecidableEq, Repr

/-- `PendingSource()` (R335): INT before the timer before SIO. -/
def pendingSource (s : State) : Option IrqSource :=
  if s.req.pin && s.en.pin then some .pin
  else if s.req.tm && s.en.tm then some .tm
  else if s.req.sio && s.en.sio then some .sio
  else none

/-- The vector address of a source (R103, R325). -/
def vectorAddr : IrqSource → CodeAddr
  | .pin => 3
  | .tm => 2
  | .sio => 1

/-- The request flags with the accepted one cleared (R338). -/
def clearRequest (src : IrqSource) (r : IrqBits) : IrqBits :=
  match src with
  | .pin => { r with pin := false }
  | .tm => { r with tm := false }
  | .sio => { r with sio := false }

/-- `AcceptCondition()` (R337), without the choice of the source. -/
def acceptEnabled (s : State) : Bool := s.inte && s.eiDelay == 0 && !s.skipNext

/-- The acceptance sequence of R338, when its push does not fault: pc into the address stack, PSWORD into INTSK and
cleared, the request and INTE cleared, pc at the vector. -/
def takeInterrupt (src : IrqSource) (s : State) : State :=
  let t := push s.pc s
  { t with
    intsk := s.psw
    psw := .clear
    req := clearRequest src s.req
    inte := false
    pc := vectorAddr src }

/-- The return of R299, when its pop does not fault: PSWORD from INTSK, pc from the address stack. -/
def returnFromInterrupt (s : State) : State :=
  { pop s with psw := s.intsk, pc := asrRead s s.sp }

end Sys2Proof.Machine
end

