-- ==== Sys2Proof/Machine/Operands.lean ====
section
/-! DEFINITION. The operand forms: general register (R50), direct operand with index modification (R116), indirect
operand (R117), the data buffer (R52), and the stuck case of Table 7-1 (R118). -/
namespace Sys2Proof.Machine

/-- `GR(r)` (R50): never modified by IX or MP. -/
def generalReg (s : State) (r : RegNum) : DataAddr := s.rprow ++ r

/-- `EA_m(m)` (R116) outside the stuck case: the OR with the index register when IXE = 1. -/
def eaM (s : State) (m : DataAddr) : DataAddr := if s.psw.ixe then m ||| s.ix else m

/-- The row of an indirect address (R117): modified by IX when IXE = 1, from MP when MPE = 1, else the row of m. -/
def indirectRow (s : State) (m : DataAddr) : BitVec 3 :=
  if s.psw.ixe then m.extractLsb' 4 3 ||| s.ix.extractLsb' 4 3
  else if s.mpe then s.ix.extractLsb' 4 3
  else m.extractLsb' 4 3

/-- `EA_ind(m, r)` (R117): the column is the content of general register r. -/
def eaInd (s : State) (m : DataAddr) (r : RegNum) : DataAddr :=
  indirectRow s m ++ memRead s .column (generalReg s r)

/-- The execution of an instruction of Table 7-1 (R115): stuck while IXE = 1 and MPE = 1 (R118). -/
def tableGuard (s : State) (act : Answer State) : Answer State :=
  if s.psw.ixe && s.mpe then .fault .settingDisabled else act

/-- The 16 bits of DBF (R52). -/
def dbfRead (s : State) : Word :=
  ramRead s.ram 0x0C ++ ramRead s.ram 0x0D ++ ramRead s.ram 0x0E ++ ramRead s.ram 0x0F

/-- The low half of DBF, DBF1 : DBF0 (R131). -/
def dbfLow (s : State) : Byte := ramRead s.ram 0x0E ++ ramRead s.ram 0x0F

/-- `DBF1 : DBF0 <- v`; DBF3 and DBF2 remain unchanged (R131). -/
def dbfWriteLow (v : Byte) (s : State) : State :=
  { s with ram := ramWrite 0x0F (v.extractLsb' 0 4) (ramWrite 0x0E (v.extractLsb' 4 4) s.ram) }

/-- `DBF <- v`, all four nibbles (R104, R132). -/
def dbfWrite (v : Word) (s : State) : State :=
  let t := { s with ram := ramWrite 0x0D (v.extractLsb' 8 4) (ramWrite 0x0C (v.extractLsb' 12 4) s.ram) }
  dbfWriteLow (v.extractLsb' 0 8) t

end Sys2Proof.Machine
end

