-- ==== Sys2Proof/Machine/Flags.lean ====
section
/-! DEFINITION. The ALU: the binary and decimal results of R192 and R195, the commit of R197 and R194, and the skip of
R24. -/
namespace Sys2Proof.Machine

/-- Table 11-2, addition (R195): the BCD carry and result for the true value `t` (0 to 31). -/
def bcdAdd (t : Nat) : Bool × Nibble :=
  if t ≤ 9 then (false, BitVec.ofNat 4 t)
  else if t ≤ 19 then (true, BitVec.ofNat 4 (t - 10))
  else (true, match t with
    | 20 | 24 => 0xE
    | 21 | 25 => 0xF
    | 22 | 26 | 30 => 0xC
    | 23 | 27 | 31 => 0xD
    | 28 => 0xA
    | 29 => 0xB
    | _ => 0)

/-- Table 11-2, subtraction (R195): the BCD borrow and result for the true value `t` (-16 to 15). -/
def bcdSub (t : Int) : Bool × Nibble :=
  if 0 ≤ t ∧ t ≤ 9 then (false, BitVec.ofInt 4 t)
  else if -10 ≤ t ∧ t ≤ -1 then (true, BitVec.ofInt 4 (t + 10))
  else (true, match t with
    | 10 => 0xC
    | 11 => 0xD
    | 12 => 0xE
    | 13 => 0xF
    | 14 => 0xC
    | 15 => 0xD
    | -16 => 0xE
    | -15 => 0xF
    | -14 => 0xC
    | -13 => 0xD
    | -12 => 0xE
    | -11 => 0xF
    | _ => 0)

/-- The addition of R192 with carry-in `c`: (cy, res), decimal when `bcd`. -/
def aluAdd (bcd : Bool) (a b : Nibble) (c : Bool) : Bool × Nibble :=
  let t := a.toNat + b.toNat + c.toNat
  if bcd then bcdAdd t else (decide (16 ≤ t), BitVec.ofNat 4 t)

/-- The subtraction of R192 with borrow-in `c`: (cy, res), decimal when `bcd`. -/
def aluSub (bcd : Bool) (a b : Nibble) (c : Bool) : Bool × Nibble :=
  let t : Int := (a.toNat : Int) - b.toNat - c.toNat
  if bcd then bcdSub t else (decide (t < 0), BitVec.ofInt 4 t)

/-- `z_new` of R197. -/
def zeroFlag (p : Psword) (res : Nibble) : Bool :=
  if res = 0 then (if p.cmp then p.z else true) else false

/-- The commit of R197: stored unless CMP = 1; a nibble stored to PSW (7FH) wins over the flags (R194). -/
def commit (dest : DataAddr) (out : Bool × Nibble) (s : State) : State :=
  if !s.psw.cmp && dest == 0x7F then memWrite s dest out.2
  else
    let t := { s with psw := { s.psw with cy := out.1, z := zeroFlag s.psw out.2 } }
    if s.psw.cmp then t else memWrite t dest out.2

/-- An arithmetic instruction of form `r, m` (R197, R198) with ALU function `f` and carry-in `c`. -/
def arithRM (f : Bool → Nibble → Nibble → Bool → Bool × Nibble) (c : Bool) (r : RegNum) (m : DataAddr) (s : State) :
    Answer State :=
  tableGuard s (.next (commit (generalReg s r)
    (f s.psw.bcd (memRead s .first (generalReg s r)) (memRead s .second (eaM s m)) c) s))

/-- An arithmetic instruction of form `m, #n4` (R197, R198). -/
def arithMI (f : Bool → Nibble → Nibble → Bool → Bool × Nibble) (c : Bool) (m : DataAddr) (n4 : Nibble) (s : State) :
    Answer State :=
  tableGuard s (.next (commit (eaM s m) (f s.psw.bcd (memRead s .first (eaM s m)) n4 c) s))

/-- A logical instruction of form `r, m` (R236): always stored, no flag. -/
def logicRM (f : Nibble → Nibble → Nibble) (r : RegNum) (m : DataAddr) (s : State) : Answer State :=
  tableGuard s (.next (memWrite s (generalReg s r)
    (f (memRead s .first (generalReg s r)) (memRead s .second (eaM s m)))))

/-- A logical instruction of form `m, #n4` (R236). -/
def logicMI (f : Nibble → Nibble → Nibble) (m : DataAddr) (n4 : Nibble) (s : State) : Answer State :=
  tableGuard s (.next (memWrite s (eaM s m) (f (memRead s .first (eaM s m)) n4)))

/-- `skip_next <- 1` when the condition holds (R24). -/
def skipWhen (b : Bool) (s : State) : State := if b then { s with skipNext := true } else s

/-- A bit judgement (R240): the nibble is read, CMP is reset, then the skip. -/
def judgeBits (test : Nibble → Bool) (m : DataAddr) (s : State) : Answer State :=
  tableGuard s (.next (skipWhen (test (memRead s .first (eaM s m)))
    { s with psw := { s.psw with cmp := false } }))

/-- A comparison (R245): no flag is read or written. -/
def compareNibble (test : Nibble → Bool) (m : DataAddr) (s : State) : Answer State :=
  tableGuard s (.next (skipWhen (test (memRead s .first (eaM s m))) s))

end Sys2Proof.Machine
end

