-- ==== Sys2Proof/Machine/Timer.lean ====
section
/-! DEFINITION. The 8-bit timer counter (R400 to R411): count pulses, the match, the phase of the count clock, the write
of its mode register. -/
namespace Sys2Proof.Machine

/-- The divisor m of the internal count clocks in system clocks (R401); 0 for the external clock (TMCK = 11B). -/
def countDivisor (tmck : BitVec 2) : Nat :=
  match tmck.toNat with
  | 0 => 256
  | 1 => 32
  | 2 => 2048
  | _ => 0

/-- `CountPulse()` of R405, called only while TMEN = 1: the match clears TMC, sets IRQTM and toggles the output
flip-flop. -/
def countPulse (s : State) : State :=
  if s.timer.tmc = s.timer.tmm then
    { s with
      timer := { s.timer with tmc := 0, tmout := !s.timer.tmout }
      req := { s.req with tm := true } }
  else { s with timer := { s.timer with tmc := s.timer.tmc + 1 } }

/-- A count pulse while the oscillation stabilizes (R365, R463): the count stands at the match, which the end of the wait
carries out (log entry 9). -/
def waitPulse (s : State) : State :=
  if s.timer.tmc = s.timer.tmm then s else { s with timer := { s.timer with tmc := s.timer.tmc + 1 } }

/-- A count pulse, by the mode it comes in (R402, R411). -/
def timerPulse (s : State) : State :=
  match s.mode with
  | .wait _ _ => waitPulse s
  | _ => countPulse s

/-- The count pulse signal is low (R404): the first half of the divided clock's period; the level of INT for the external
clock. -/
def countSignalLow (s : State) : Bool :=
  if s.timer.tmck = 3 then !s.pins.int
  else decide (s.timer.presc.toNat % countDivisor s.timer.tmck < countDivisor s.timer.tmck / 2)

/-- TMRES <- 1 (R64, R407): TMC and IRQTM cleared, the output flip-flop set to its initial value. -/
def timerReset (s : State) : State :=
  { s with
    timer := { s.timer with tmc := 0, tmout := true }
    req := { s.req with tm := false } }

/-- The write of the timer mode register, RF 11H (R407): a start while the count signal is low counts at once, and the
TMRES action comes last. A change of TMCK while the timer counts gives no pulse of its own, and the new clock counts from
this slot on (log entry 26). -/
def writeTimerMode (w : Nibble) (s : State) : State :=
  let t := { s with timer := { s.timer with tmen := w.getLsbD 3, tmck := w.extractLsb' 0 2 } }
  let u := if !s.timer.tmen && w.getLsbD 3 && countSignalLow t then countPulse t else t
  if w.getLsbD 2 then timerReset u else u

/-- The prescaler wraps modulo the divisor of an internal count clock in this slot (R404); never with the external clock
(R411). -/
def prescalerWraps (s : State) : Bool :=
  let m := countDivisor s.timer.tmck
  s.timer.tmck != 3 && decide ((s.timer.presc + 16).toNat % m < s.timer.presc.toNat % m)

/-- One slot of 16 system clocks on the prescaler (R404): a count pulse when it wraps while TMEN = 1 (R411). -/
def timerSlot (s : State) : State :=
  let t := { s with timer := { s.timer with presc := s.timer.presc + 16 } }
  if s.timer.tmen && prescalerWraps s then timerPulse t else t

end Sys2Proof.Machine
end

