-- ==== Sys2Proof/Machine/ControlRegs.lean ====
section
/-! DEFINITION. The register file as PEEK and POKE see it (R125, R126): the control registers of R60, bit for bit, with
the actions their writes trigger, and the alias of data memory from 40H on. -/
namespace Sys2Proof.Machine

/-- The control register nibble at 00H..3FH (R60 to R81): fixed-0 bits and TMRES read 0, INT reads the pin, an unused
address reads a free nibble; 1CH, 1DH, 1EH and 23H are used on the comparator parts only. -/
def ctrlRead (s : State) (site : Draw) (a : DataAddr) : Nibble :=
  let unused := Config.free s.slot site 4
  let onComparatorParts (v : Nibble) : Nibble := if s.chip.part.hasComparator then v else unused
  match a.toNat with
  | 0x01 => 0#1 ++ s.sp
  | 0x0A => flagNibble s.serial.sioen
  | 0x0F => flagNibble s.pins.int
  | 0x10 => flagNibble s.pdresen
  | 0x11 => nibble s.timer.tmen false (s.timer.tmck.getLsbD 1) (s.timer.tmck.getLsbD 0)
  | 0x12 => flagNibble s.timer.tmosel
  | 0x1A => nibble s.serial.siots s.serial.siohiz (s.serial.siock.getLsbD 1) (s.serial.siock.getLsbD 0)
  | 0x1C => onComparatorParts (lowPair s.comparator.ch)
  | 0x1D => onComparatorParts s.comparator.vref
  | 0x1E => onComparatorParts (nibble false false s.comparator.strt s.comparator.rslt)
  | 0x1F => lowPair s.iegmd
  | 0x23 => onComparatorParts s.ports.cidi
  | 0x24 => flagNibble s.ports.bgio
  | 0x2F => nibble false s.en.sio s.en.tm s.en.pin
  | 0x32 => lowPair s.ports.ebio
  | 0x33 => s.ports.dbio
  | 0x34 => s.ports.cbio
  | 0x35 => s.ports.abio
  | 0x3D => flagNibble s.req.sio
  | 0x3E => flagNibble s.req.tm
  | 0x3F => flagNibble s.req.pin
  | _ => unused

/-- `RfRead(a)` (R125, R126). -/
def rfRead (s : State) (site : Draw) (a : DataAddr) : Nibble :=
  if a.toNat ≤ 0x3F then ctrlRead s site a else memRead s site a

/-- The write of SP, RF 01H (R33): 6 and 7 raise the stack fault reset (R321 (c)). -/
def writeSp (v : Nibble) (s : State) : State :=
  if 5 < (v.extractLsb' 0 3).toNat then stackFaultReset s else { s with sp := v.extractLsb' 0 3 }

/-- The write of SIOEN, RF 0AH (R61): clearing it during a transfer is refused (R430). -/
def writeSioen (v : Nibble) (s : State) : Answer State :=
  if s.serial.siots && !v.getLsbD 0 then .refused .serialEnableMisuse
  else .next { s with serial := { s.serial with sioen := v.getLsbD 0 } }

/-- Starting or stopping the shift register after SIOHIZ and SIOCK are written (R433): a 1 clears IRQSIO, and starts a
transfer if none runs; a 0 stops it. The start leaves the phase of the serial divider, which runs free (log entry
27). -/
def writeSiots (start : Bool) (s : State) : State :=
  if start then
    let t := { s with req := { s.req with sio := false } }
    if s.serial.siots then t
    else { t with serial := { t.serial with siots := true, count := 0, armed := false } }
  else { s with serial := { s.serial with siots := false } }

/-- The write of the serial interface control register, RF 1AH (R433). -/
def writeSerialMode (v : Nibble) (s : State) : Answer State :=
  if v.getLsbD 3 && !s.serial.sioen then .refused .serialEnableMisuse
  else .next (writeSiots (v.getLsbD 3)
    { s with serial := { s.serial with siohiz := v.getLsbD 2, siock := v.extractLsb' 0 2 } })

/-- A write to a comparator register (R67 to R71): nothing on the parts without a comparator (R81). -/
def onComparator (s : State) (t : State) : State := if s.chip.part.hasComparator then t else s

/-- The write of CMPCH, RF 1CH, and of CMPVREF, RF 1DH: ignored while a comparison runs (R423). -/
def unlessComparing (s : State) (t : State) : State := if s.comparator.strt then s else t

/-- The write of RF 1EH (R421): a 1 in bit 1 starts a comparison if none runs. -/
def writeCmpstrt (v : Nibble) (s : State) : State :=
  if v.getLsbD 1 && !s.comparator.strt then
    { s with comparator := { s.comparator with strt := true, busy := s.chip.part.cmpCycles, disturbed := false } }
  else s

/-- The write of the control register nibble at 00H..3FH (R60 to R81): fixed-0, read-only and unused bits take
nothing. -/
def ctrlWrite (s : State) (a : DataAddr) (v : Nibble) : Answer State :=
  match a.toNat with
  | 0x01 => .next (writeSp v s)
  | 0x0A => writeSioen v s
  | 0x10 => .next { s with pdresen := v.getLsbD 0 }
  | 0x11 => .next (writeTimerMode v s)
  | 0x12 => .next { s with timer := { s.timer with tmosel := v.getLsbD 0 } }
  | 0x1A => writeSerialMode v s
  | 0x1C => .next (onComparator s (unlessComparing s
      { s with comparator := { s.comparator with ch := v.extractLsb' 0 2 } }))
  | 0x1D => .next (onComparator s (unlessComparing s { s with comparator := { s.comparator with vref := v } }))
  | 0x1E => .next (onComparator s (writeCmpstrt v s))
  | 0x1F => .next { s with iegmd := v.extractLsb' 0 2 }
  | 0x23 => .next (onComparator s { s with ports := { s.ports with cidi := v } })
  | 0x24 => .next { s with ports := { s.ports with bgio := v.getLsbD 0 } }
  | 0x2F => .next { s with en := ⟨v.getLsbD 2, v.getLsbD 1, v.getLsbD 0⟩ }
  | 0x32 => .next { s with ports := { s.ports with ebio := v.extractLsb' 0 2 } }
  | 0x33 => .next { s with ports := { s.ports with dbio := v } }
  | 0x34 => .next { s with ports := { s.ports with cbio := v } }
  | 0x35 => .next { s with ports := { s.ports with abio := v } }
  | 0x3D => .next { s with req := { s.req with sio := v.getLsbD 0 } }
  | 0x3E => .next { s with req := { s.req with tm := v.getLsbD 0 } }
  | 0x3F => .next { s with req := { s.req with pin := v.getLsbD 0 } }
  | _ => .next s

/-- `RfWrite(a, v)` (R125, R126). -/
def rfWrite (s : State) (a : DataAddr) (v : Nibble) : Answer State :=
  if a.toNat ≤ 0x3F then ctrlWrite s a v else .next (memWrite s a v)

end Sys2Proof.Machine
end

