-- ==== Sys2Proof/Machine/Peripherals.lean ====
section
/-! DEFINITION. The peripheral registers through the data buffer (R130 to R133, R281, R282). -/
namespace Sys2Proof.Machine

/-- `DBF <- PeriRead(p)` (R281): 8-bit registers fill DBF1 : DBF0, AR all of DBF; TMM is write-only (R133), an
unassigned address gives 16 free bits (D9). -/
def peripheralGet (p : DataAddr) (s : State) : State :=
  match p.toNat with
  | 0x01 => dbfWriteLow s.serial.siosfr s
  | 0x02 => dbfWriteLow s.timer.tmc s
  | 0x03 => dbfWriteLow (Config.free s.slot .peripheral 8) s
  | 0x40 => dbfWrite (s.ar.setWidth 16) s
  | _ => dbfWrite (Config.free s.slot .peripheral 16) s

/-- SIOSFR <- v (R432): during a transfer the value stored is free. -/
def writeShiftRegister (v : Byte) (s : State) : State :=
  { s with serial := { s.serial with
      siosfr := if s.serial.siots then Config.free s.slot .shiftRegister 8 else v } }

/-- `PeriWrite(p, DBF)` (R282): TMM refuses 00H (R403); TMC and unassigned addresses take nothing (R133). -/
def peripheralPut (p : DataAddr) (s : State) : Answer State :=
  match p.toNat with
  | 0x01 => .next (writeShiftRegister (dbfLow s) s)
  | 0x03 =>
    if dbfLow s = 0 then .refused .timerModuloZero
    else .next { s with timer := { s.timer with tmm := dbfLow s } }
  | 0x40 => .next { s with ar := (dbfRead s).extractLsb' 0 10 }
  | _ => .next s

end Sys2Proof.Machine
end

