-- ==== Sys2Proof/Machine/Standby.lean ====
section
/-! DEFINITION. Entering the standby modes and the conditions that release them (R350 to R362). -/
namespace Sys2Proof.Machine

/-- `HaltReleaseCondition(h, f)` (R352) on a view `f` of the request flags. -/
def haltRelease (h : Nibble) (f : IrqBits) (s : State) : Bool :=
  (h.getLsbD 3 && (f.pin && s.en.pin || f.tm && s.en.tm || f.sio && s.en.sio)) || (h.getLsbD 1 && f.tm)

/-- `StopReleaseCondition(s, f)` (R361); the timer does not release STOP mode. -/
def stopRelease (c : Nibble) (f : IrqBits) (s : State) : Bool :=
  c.getLsbD 3 && (f.pin && s.en.pin || f.sio && s.en.sio)

/-- Entering HALT mode (R351): SIOSFR noted (R93); a comparison in progress loses its result (R426). -/
def enterHalt (h : Nibble) (s : State) : State :=
  { retainShiftRegister s with
    mode := .halt h
    comparator := { s.comparator with disturbed := s.comparator.disturbed || decide (0 < s.comparator.busy) } }

/-- `EnterStop(s)` (R360): SIOSFR noted (R93), the count cleared, IRQTM released, a comparison cut short with an
undefined result. -/
def enterStop (c : Nibble) (s : State) : State :=
  { retainShiftRegister s with
    timer := { s.timer with tmc := 0 }
    req := { s.req with tm := false }
    comparator := { s.comparator with
      strt := false
      rslt := if 0 < s.comparator.busy then (Config.free s.slot .comparison 1).getLsbD 0 else s.comparator.rslt
      busy := 0
      disturbed := false }
    mode := .stop c }

/-- `StopInitialize()` (R362): the column PinResetStandby, which retains SIOSFR as STOP 0000B finds it (R93), then STOP
mode with no release condition. -/
def stopInitialize (s : State) : State := { pinResetStandby (retainShiftRegister s) with mode := .stop 0 }

end Sys2Proof.Machine
end

