-- ==== Sys2Proof/Machine/Devices.lean ====
section
/-! DEFINITION. What the pins and the on-chip devices do at the end of one instruction slot (R491 step 5): INT edge
detector, timer, serial interface, comparator, in this order. -/
namespace Sys2Proof.Machine

/-- A slot in which the host does nothing. -/
def quietSlot : HostSlot := ⟨[], none, [], [], none, none, none, none, none, false⟩

/-- A level of the ports the devices do not watch, and the comparator's answer (R492). -/
def sampleLevels (h : HostSlot) (s : State) : State :=
  { s with pins := { s.pins with
      a := h.a.getD s.pins.a
      b := h.b.getD s.pins.b
      c := h.c.getD s.pins.c
      e := h.e.getD s.pins.e
      cmpHigher := h.cmpHigher.getD s.pins.cmpHigher } }

/-- The INT edge chosen by IEGMD (R332): 00 rising, 01 falling, else both. -/
def edgeSelected (iegmd : BitVec 2) (before now : Bool) : Bool :=
  match iegmd.toNat with
  | 0 => !before && now
  | 1 => before && !now
  | _ => before != now

/-- One reported level of INT through the edge detector (R332). -/
def intEdge (now : Bool) (s : State) : State :=
  { s with
    req := { s.req with pin := s.req.pin || edgeSelected s.iegmd s.intPrev now }
    intPrev := now
    pins := { s.pins with int := now } }

/-- The INT levels of a slot, in order (R332). A rising edge is a count pulse when TMCK = 11B and TMEN = 1 (R401, R411)
while `counting`; with `single` only the first of the slot is counted (R406). -/
def intLevels (counting single : Bool) : List Bool → State → State
  | [], s => s
  | now :: rest, s =>
    if counting && s.timer.tmen && s.timer.tmck == 3 && !s.intPrev && now then
      intLevels (!single) single rest (timerPulse (intEdge now s))
    else intLevels counting single rest (intEdge now s)

/-- A falling edge of the serial clock (R434, R438): SO shows the most significant bit; in receive mode the latch
becomes free at the first one. With SIOHIZ changed to 1 after that edge the latch keeps its bit (log entry 28). -/
def serialFall (s : State) : State :=
  if s.serial.siots then
    let so := if !s.serial.siohiz then s.serial.siosfr.getLsbD 7
              else if s.serial.armed then s.ports.latchD.getLsbD 1
              else (Config.free s.slot .soLatch 1).getLsbD 0
    { s with
      serial := { s.serial with armed := true }
      ports := { s.ports with
        latchD := nibble (s.ports.latchD.getLsbD 3) (s.ports.latchD.getLsbD 2) so (s.ports.latchD.getLsbD 0) } }
  else s

/-- A rising edge of the serial clock after a falling one (R434): SI enters the shift register; the eighth ends the
transfer. -/
def serialRise (s : State) : State :=
  if s.serial.siots && s.serial.armed then
    let t := { s with serial := { s.serial with
                siosfr := s.serial.siosfr.extractLsb' 0 7 ++ BitVec.ofBool (pinLevel s .d 2)
                count := s.serial.count + 1 } }
    if t.serial.count = 0 then
      { t with serial := { t.serial with siots := false }, req := { t.req with sio := true } }
    else t
  else s

/-- Edges of the serial clock in time order; `true` is a rising one. -/
def serialEdges (edges : List Bool) (s : State) : State :=
  edges.foldl (fun t rising => if rising then serialRise t else serialFall t) s

/-- One reported level of the P0D pins: an edge of SCK when the serial clock is external (R431, R440). -/
def dLevel (s : State) (now : Nibble) : State :=
  let sck := now.getLsbD 0
  let t := { s with pins := { s.pins with d := now }, serial := { s.serial with sckPrev := sck } }
  if s.serial.siock = 0 && s.serial.sckPrev != sck then serialEdges [sck] t else t

/-- The edges the divider gives in one slot from phase `p` of a clock of `d` system clocks (R431, R440): it falls when
the phase wraps and rises at half the period; a clock of 16 has one of each. -/
def dividerEdges (d p : Nat) : List Bool :=
  if d = 0 then []
  else if d = 16 then (if p < 8 then [true, false] else [false, true])
  else if d ≤ p + 16 then [false]
  else if p < d / 2 ∧ d / 2 ≤ p + 16 then [true]
  else []

/-- One slot of the internal serial clock (R440). -/
def serialSlot (s : State) : State :=
  let d := serialDivisor s.serial.siock
  let t := { s with serial := { s.serial with sdiv := s.serial.sdiv + 16 } }
  serialEdges (dividerEdges d (s.serial.sdiv.toNat % d)) t

/-- One slot of the comparator in RUN mode (R421): at the end of the countdown the host's answer, free if HALT disturbed
the comparison (R426). -/
def comparatorSlot (s : State) : State :=
  if s.comparator.busy = 0 then s
  else if s.comparator.busy = 1 then
    { s with comparator := { s.comparator with
        busy := 0
        strt := false
        rslt := if s.comparator.disturbed then (Config.free s.slot .comparison 1).getLsbD 0 else s.pins.cmpHigher
        disturbed := false } }
  else { s with comparator := { s.comparator with busy := s.comparator.busy - 1 } }

/-- The pin events of a slot without a system clock (R363, R491 step 5): INT edges and an externally clocked transfer. -/
def stoppedDevices (h : HostSlot) (s : State) : State :=
  h.dLevels.foldl dLevel (intLevels false false h.intLevels (sampleLevels h s))

/-- Step 5 of R491 while the system clock runs (RUN, HALT, WAIT: R402, R411, R440); `single` is on in the slot of GET TMC
(R406). -/
def clockedDevices (single : Bool) (h : HostSlot) (s : State) : State :=
  let t := intLevels true single h.intLevels (sampleLevels h s)
  serialSlot (h.dLevels.foldl dLevel (timerSlot t))

end Sys2Proof.Machine
end

