-- ==== Sys2Proof/Machine/Addition.lean ====
section
/-! DEFINITION. The addition instructions (40_addition.md). -/
namespace Sys2Proof.Machine

/-- `ADD r, m` (R200). -/
def execAddRM (r : RegNum) (m : DataAddr) (s : State) : Answer State := arithRM aluAdd false r m s

/-- `ADD m, #n4` (R201). -/
def execAddMI (m : DataAddr) (n4 : Nibble) (s : State) : Answer State := arithMI aluAdd false m n4 s

/-- `ADDC r, m` (R202). -/
def execAddcRM (r : RegNum) (m : DataAddr) (s : State) : Answer State := arithRM aluAdd s.psw.cy r m s

/-- `ADDC m, #n4` (R203). -/
def execAddcMI (m : DataAddr) (n4 : Nibble) (s : State) : Answer State := arithMI aluAdd s.psw.cy m n4 s

/-- `INC AR` (R206): modulo 1024, no flag. -/
def execIncAR (s : State) : Answer State := .next { s with ar := s.ar + 1 }

/-- `INC IX` (R207): modulo 128, no flag. -/
def execIncIX (s : State) : Answer State := .next { s with ix := s.ix + 1 }

end Sys2Proof.Machine
end

