-- ==== Sys2Proof/Machine/Control.lean ====
section
/-! DEFINITION. The branch (47_branch.md) and subroutine (48_subroutine.md) instructions. `pc` already holds the address
of the next word (R22, D1). -/
namespace Sys2Proof.Machine

/-- The target of BR and CALL, `addr[9:0]` (R290, R295). -/
def branchTarget (addr : BranchOperand) : CodeAddr := addr.extractLsb' 0 10

/-- `BR addr` (R290). -/
def execBr (addr : BranchOperand) (s : State) : Answer State :=
  if addr.getLsbD 10 then .refused .undefinedEncoding else .next { s with pc := branchTarget addr }

/-- `BR @AR` (R291). -/
def execBrAR (s : State) : Answer State := .next { s with pc := s.ar }

/-- `CALL addr` (R295). -/
def execCall (addr : BranchOperand) (s : State) : Answer State :=
  if addr.getLsbD 10 then .refused .undefinedEncoding
  else withPush s.pc s fun t => { t with pc := branchTarget addr }

/-- `CALL @AR` (R296). -/
def execCallAR (s : State) : Answer State := withPush s.pc s fun t => { t with pc := s.ar }

/-- `RET` (R297). -/
def execRet (s : State) : Answer State := withPop s fun v t => { t with pc := v }

/-- `RETSK` (R298). -/
def execRetsk (s : State) : Answer State := withPop s fun v t => { t with pc := v, skipNext := true }

/-- `RETI` (R299): the check of the pop comes first, so a faulting RETI restores nothing. -/
def execReti (s : State) : Answer State :=
  if popFaults s then .next (stackFaultReset s) else .next (returnFromInterrupt s)

end Sys2Proof.Machine
end

