-- ==== Sys2Proof/Machine/Logical.lean ====
section
/-! DEFINITION. The logical operation instructions (42_logical.md). -/
namespace Sys2Proof.Machine

/-- `OR r, m` (R230). -/
def execOrRM (r : RegNum) (m : DataAddr) (s : State) : Answer State := logicRM (· ||| ·) r m s

/-- `OR m, #n4` (R231). -/
def execOrMI (m : DataAddr) (n4 : Nibble) (s : State) : Answer State := logicMI (· ||| ·) m n4 s

/-- `AND r, m` (R232). -/
def execAndRM (r : RegNum) (m : DataAddr) (s : State) : Answer State := logicRM (· &&& ·) r m s

/-- `AND m, #n4` (R233). -/
def execAndMI (m : DataAddr) (n4 : Nibble) (s : State) : Answer State := logicMI (· &&& ·) m n4 s

/-- `XOR r, m` (R234). -/
def execXorRM (r : RegNum) (m : DataAddr) (s : State) : Answer State := logicRM (· ^^^ ·) r m s

/-- `XOR m, #n4` (R235). -/
def execXorMI (m : DataAddr) (n4 : Nibble) (s : State) : Answer State := logicMI (· ^^^ ·) m n4 s

end Sys2Proof.Machine
end

