-- ==== Sys2Proof/Machine/Rotation.lean ====
section
/-! DEFINITION. The rotation instruction (45_rotation.md). -/
namespace Sys2Proof.Machine

/-- `RORC r` (R255): `CY : a[3:1]` is stored, then CY <- a[0], in this order when the register is PSW (D13). -/
def execRorc (r : RegNum) (s : State) : Answer State :=
  let a := memRead s .first (generalReg s r)
  let t := memWrite s (generalReg s r) (BitVec.ofBool s.psw.cy ++ a.extractLsb' 1 3)
  .next { t with psw := { t.psw with cy := a.getLsbD 0 } }

end Sys2Proof.Machine
end

