-- ==== Sys2Proof/Machine/Skips.lean ====
section
/-! DEFINITION. The bit judgement (43_judgment.md) and comparison (44_comparison.md) instructions. -/
namespace Sys2Proof.Machine

/-- `SKT m, #n` (R241): skip if every bit of the mask is 1. -/
def execSkt (m : DataAddr) (n : Nibble) (s : State) : Answer State := judgeBits (fun v => v &&& n == n) m s

/-- `SKF m, #n` (R242): skip if every bit of the mask is 0. -/
def execSkf (m : DataAddr) (n : Nibble) (s : State) : Answer State := judgeBits (fun v => v &&& n == 0) m s

/-- `SKE m, #n4` (R246). -/
def execSke (m : DataAddr) (n4 : Nibble) (s : State) : Answer State := compareNibble (fun v => v == n4) m s

/-- `SKNE m, #n4` (R247). -/
def execSkne (m : DataAddr) (n4 : Nibble) (s : State) : Answer State := compareNibble (fun v => v != n4) m s

/-- `SKGE m, #n4` (R248), unsigned. -/
def execSkge (m : DataAddr) (n4 : Nibble) (s : State) : Answer State :=
  compareNibble (fun v => decide (n4.toNat ≤ v.toNat)) m s

/-- `SKLT m, #n4` (R249), unsigned. -/
def execSklt (m : DataAddr) (n4 : Nibble) (s : State) : Answer State :=
  compareNibble (fun v => decide (v.toNat < n4.toNat)) m s

end Sys2Proof.Machine
end

