-- ==== Sys2Proof/Machine/Subtraction.lean ====
section
/-! DEFINITION. The subtraction instructions (41_subtraction.md). -/
namespace Sys2Proof.Machine

/-- `SUB r, m` (R220). -/
def execSubRM (r : RegNum) (m : DataAddr) (s : State) : Answer State := arithRM aluSub false r m s

/-- `SUB m, #n4` (R221). -/
def execSubMI (m : DataAddr) (n4 : Nibble) (s : State) : Answer State := arithMI aluSub false m n4 s

/-- `SUBC r, m` (R222). -/
def execSubcRM (r : RegNum) (m : DataAddr) (s : State) : Answer State := arithRM aluSub s.psw.cy r m s

/-- `SUBC m, #n4` (R223). -/
def execSubcMI (m : DataAddr) (n4 : Nibble) (s : State) : Answer State := arithMI aluSub s.psw.cy m n4 s

end Sys2Proof.Machine
end

