-- ==== Sys2Proof/Machine/System.lean ====
section
/-! DEFINITION. The interrupt (49_interrupt_instructions.md) and other (50_other.md) instructions. -/
namespace Sys2Proof.Machine

/-- `EI` (R305): the delay starts; the step sets INTE at its end (R86). -/
def execEi (s : State) : Answer State := .next { s with eiDelay := 2 }

/-- `DI` (R306): at once, and a pending EI is cancelled (D7). -/
def execDi (s : State) : Answer State := .next { s with inte := false, eiDelay := 0 }

/-- `STOP s` (R310): a NOP when the delayed view of the flags already releases it. -/
def execStop (c : Nibble) (s : State) : Answer State :=
  if c.extractLsb' 0 3 ≠ 0 then .refused .reservedStandbyCondition
  else if c = 0 then .next (stopInitialize s)
  else if stopRelease c s.irqSeen s then .next s
  else .next (enterStop c s)

/-- `HALT h` (R311): a NOP when the delayed view of the flags already releases it. -/
def execHalt (h : Nibble) (s : State) : Answer State :=
  if h.getLsbD 2 || h.getLsbD 0 then .refused .reservedStandbyCondition
  else if haltRelease h s.irqSeen s then .next s
  else .next (enterHalt h s)

/-- `NOP` (R312). -/
def execNop (s : State) : Answer State := .next s

end Sys2Proof.Machine
end

