-- ==== Sys2Proof/Machine/Transfer.lean ====
section
/-! DEFINITION. The transfer instructions (46_transfer.md). -/
namespace Sys2Proof.Machine

/-- `LD r, m` (R260). -/
def execLd (r : RegNum) (m : DataAddr) (s : State) : Answer State :=
  tableGuard s (.next (memWrite s (generalReg s r) (memRead s .second (eaM s m))))

/-- `ST m, r` (R261). -/
def execSt (m : DataAddr) (r : RegNum) (s : State) : Answer State :=
  tableGuard s (.next (memWrite s (eaM s m) (memRead s .second (generalReg s r))))

/-- `MOV @r, m` (R262). -/
def execMovIndM (r : RegNum) (m : DataAddr) (s : State) : Answer State :=
  tableGuard s (.next (memWrite s (eaInd s m r) (memRead s .second (eaM s m))))

/-- `MOV m, @r` (R263). -/
def execMovMInd (m : DataAddr) (r : RegNum) (s : State) : Answer State :=
  tableGuard s (.next (memWrite s (eaM s m) (memRead s .second (eaInd s m r))))

/-- `MOV m, #n4` (R264). -/
def execMovMI (m : DataAddr) (n4 : Nibble) (s : State) : Answer State :=
  tableGuard s (.next (memWrite s (eaM s m) n4))

/-- `MOVT DBF, @AR` (R270): one stack level is used for its two cycles; pc ends where it was. -/
def execMovt (s : State) : Answer State :=
  withPush s.pc s fun t => pop (dbfWrite (romRead s s.ar) t)

/-- `PUSH AR` (R272). -/
def execPushAR (s : State) : Answer State := withPush s.ar s id

/-- `POP AR` (R273). -/
def execPopAR (s : State) : Answer State := withPop s fun v t => { t with ar := v }

/-- `PEEK WR, rf` (R275). -/
def execPeek (rf : DataAddr) (s : State) : Answer State := .next { s with wr := rfRead s .window rf }

/-- `POKE rf, WR` (R276). -/
def execPoke (rf : DataAddr) (s : State) : Answer State := rfWrite s rf s.wr

/-- `GET DBF, p` (R281). -/
def execGet (p : DataAddr) (s : State) : Answer State := .next (peripheralGet p s)

/-- `PUT p, DBF` (R282). -/
def execPut (p : DataAddr) (s : State) : Answer State := peripheralPut p s

end Sys2Proof.Machine
end

