-- ==== Sys2Proof/Machine/Dispatch.lean ====
section
/-! DEFINITION. The dispatch: one arm for each constructor of `Instr`, one direct call of its meaning. -/
namespace Sys2Proof.Machine

def exec (i : Instr) (s : State) : Host.Outcome State Fault Refusal :=
  match i with
  | .addRM r m => Sys2Proof.Machine.execAddRM r m s
  | .addMI m n4 => Sys2Proof.Machine.execAddMI m n4 s
  | .addcRM r m => Sys2Proof.Machine.execAddcRM r m s
  | .addcMI m n4 => Sys2Proof.Machine.execAddcMI m n4 s
  | .incAR => Sys2Proof.Machine.execIncAR s
  | .incIX => Sys2Proof.Machine.execIncIX s
  | .subRM r m => Sys2Proof.Machine.execSubRM r m s
  | .subMI m n4 => Sys2Proof.Machine.execSubMI m n4 s
  | .subcRM r m => Sys2Proof.Machine.execSubcRM r m s
  | .subcMI m n4 => Sys2Proof.Machine.execSubcMI m n4 s
  | .orRM r m => Sys2Proof.Machine.execOrRM r m s
  | .orMI m n4 => Sys2Proof.Machine.execOrMI m n4 s
  | .andRM r m => Sys2Proof.Machine.execAndRM r m s
  | .andMI m n4 => Sys2Proof.Machine.execAndMI m n4 s
  | .xorRM r m => Sys2Proof.Machine.execXorRM r m s
  | .xorMI m n4 => Sys2Proof.Machine.execXorMI m n4 s
  | .skt m n => Sys2Proof.Machine.execSkt m n s
  | .skf m n => Sys2Proof.Machine.execSkf m n s
  | .ske m n4 => Sys2Proof.Machine.execSke m n4 s
  | .skne m n4 => Sys2Proof.Machine.execSkne m n4 s
  | .skge m n4 => Sys2Proof.Machine.execSkge m n4 s
  | .sklt m n4 => Sys2Proof.Machine.execSklt m n4 s
  | .rorc r => Sys2Proof.Machine.execRorc r s
  | .ld r m => Sys2Proof.Machine.execLd r m s
  | .st m r => Sys2Proof.Machine.execSt m r s
  | .movIndM r m => Sys2Proof.Machine.execMovIndM r m s
  | .movMInd m r => Sys2Proof.Machine.execMovMInd m r s
  | .movMI m n4 => Sys2Proof.Machine.execMovMI m n4 s
  | .movt => Sys2Proof.Machine.execMovt s
  | .pushAR => Sys2Proof.Machine.execPushAR s
  | .popAR => Sys2Proof.Machine.execPopAR s
  | .peek rf => Sys2Proof.Machine.execPeek rf s
  | .poke rf => Sys2Proof.Machine.execPoke rf s
  | .get p => Sys2Proof.Machine.execGet p s
  | .put p => Sys2Proof.Machine.execPut p s
  | .br addr => Sys2Proof.Machine.execBr addr s
  | .brAR => Sys2Proof.Machine.execBrAR s
  | .call addr => Sys2Proof.Machine.execCall addr s
  | .callAR => Sys2Proof.Machine.execCallAR s
  | .ret => Sys2Proof.Machine.execRet s
  | .retsk => Sys2Proof.Machine.execRetsk s
  | .reti => Sys2Proof.Machine.execReti s
  | .ei => Sys2Proof.Machine.execEi s
  | .di => Sys2Proof.Machine.execDi s
  | .stop c => Sys2Proof.Machine.execStop c s
  | .halt h => Sys2Proof.Machine.execHalt h s
  | .nop => Sys2Proof.Machine.execNop s

end Sys2Proof.Machine
end

