-- ==== Sys2Proof/Machine/Cycle.lean ====
section
/-! DEFINITION. One step of the machine: one instruction slot in the order of R491, two slots for MOVT. -/
namespace Sys2Proof.Machine

/-- The host's events of the slot that starts (R492); quiet when the host has said nothing more (log entry 8). -/
def currentSlot (s : State) : HostSlot := s.inputs.headD quietSlot

/-- A slot starts: its host events leave the queue, and the free values get new names. -/
def openSlot (s : State) : State := { s with inputs := s.inputs.tail, slot := s.slot + 1 }

/-- RESET goes low somewhere in the levels of a slot (R461). -/
def resetFalls (before : Bool) : List Bool → Bool
  | [] => false
  | now :: rest => (before && !now) || resetFalls now rest

/-- A power-on reset, or a power-down reset while PDRESEN = 1 (R462, R63). -/
def powerResets (h : HostSlot) (s : State) : Bool :=
  h.power == some .powerOn || (h.power == some .powerDown && s.pdresen)

/-- The slots of the stabilization wait after a reset: 256 × 256 system clocks (R463). -/
def resetWaitSlots : Nat := 4096

/-- The pins at their last levels of the slot, with no edge seen: a slot of a reset, pin, supply (log entry 13) or stack
fault (log entry 25). -/
def settlePins (h : HostSlot) (s : State) : State :=
  let t := sampleLevels h s
  let int := h.intLevels.getLastD t.pins.int
  let d := h.dLevels.getLastD t.pins.d
  { t with
    pins := { t.pins with int := int, d := d, reset := h.resetLevels.getLastD t.pins.reset }
    intPrev := int
    serial := { t.serial with sckPrev := d.getLsbD 0 } }

/-- A pin or supply reset (R460, R461, R366): the column of R92 by the mode, then the stabilization wait. -/
def applyReset (s : State) : State :=
  let t := match s.mode with
    | .halt _ | .stop _ => pinResetStandby s
    | .run | .wait _ _ => pinReset s
  { t with mode := .wait .afterReset resetWaitSlots }

/-- Step 0 of R491: a reset event takes the whole slot, and so does a slot with RESET held low (R461). Several events in
one slot are one reset, by the mode in which the slot starts (log entry 30). -/
def resetPhase (h : HostSlot) (s : State) : Option State :=
  if resetFalls s.pins.reset h.resetLevels || powerResets h s then some (applyReset (settlePins h s))
  else if !h.resetLevels.getLastD s.pins.reset then some (settlePins h s)
  else none

/-- Step 1 of R491 (R95). -/
def latchRequests (s : State) : State := { s with irqSeen := s.irqLast, irqLast := s.req }

/-- Step 4 of R491 (R86): the EI delay. -/
def tickEi (s : State) : State :=
  if s.eiDelay = 0 then s
  else { s with eiDelay := s.eiDelay - 1, inte := s.inte || s.eiDelay == 1 }

/-- Step 5 of R491 after the slot of an instruction, a skipped word or an INT cycle, by the mode the instruction left;
`comparing`: a comparison was running when the slot started (R421). -/
def slotDevices (single comparing : Bool) (h : HostSlot) (s : State) : State :=
  match s.mode with
  | .run => let t := clockedDevices single h s; if comparing then comparatorSlot t else t
  | .halt _ | .wait _ _ => clockedDevices single h s
  | .stop _ => stoppedDevices h s

/-- Steps 4 and 5 of R491. -/
def closeSlot (single comparing : Bool) (h : HostSlot) (s : State) : State :=
  slotDevices single comparing h (tickEi s)

/-- The second slot of MOVT (R491 2c): its own host events, a reset first, then steps 1, 4 and 5. -/
def secondSlot (s : State) : State :=
  let h := currentSlot s
  let t := openSlot s
  match resetPhase h t with
  | some u => u
  | none => closeSlot false (decide (0 < t.comparator.busy)) h (latchRequests { t with pins := { t.pins with reset := true } })

/-- The instruction raises the stack fault reset in this state (R321). -/
def raisesStackFault (i : Instr) (s : State) : Bool :=
  match i with
  | .call _ | .callAR | .pushAR | .movt => pushFaults s
  | .ret | .retsk | .reti | .popAR => popFaults s
  | .poke rf => rf == 0x01 && decide (5 < (s.wr.extractLsb' 0 3).toNat)
  | _ => false

/-- Steps 4 and 5 after the instruction `i` executed from `before` and left `after`: after a stack fault reset none but
the pins, which settle at the levels of the slot (R491 2d, R492, log entry 25); a second slot for MOVT (R490). -/
def finishInstr (i : Instr) (comparing : Bool) (h : HostSlot) (before after : State) : State :=
  if raisesStackFault i before then settlePins h after
  else if i = .movt then secondSlot (closeSlot false comparing h after)
  else closeSlot (i == .get 0x02) comparing h after

/-- The word at pc, and pc past it (R491 2b, R22). -/
def fetched (s : State) : Word := romRead s s.pc
/-- `pc <- pc + 1` at the fetch (R22, D1, D2). -/
def advancePc (s : State) : State := { s with pc := s.pc + 1 }

/-- Steps 2b and 2c of R491 with the steps after them: fetch, then skip, refuse or execute. -/
def runInstr (comparing : Bool) (h : HostSlot) (s : State) : Answer State :=
  let t := advancePc s
  if s.skipNext then .next (closeSlot false comparing h { t with skipNext := false })
  else match decode (fetched s) with
    | .error _ => .refused .undefinedEncoding
    | .ok i =>
      match exec i t with
      | .next u => .next (finishInstr i comparing h t u)
      | .fault r => .fault r
      | .refused r => .refused r

/-- RUN mode (R491 2a): an acceptable interrupt takes the slot (R337, R338), else an instruction does. -/
def runSlot (h : HostSlot) (s : State) : Answer State :=
  let comparing := decide (0 < s.comparator.busy)
  match acceptEnabled s, pendingSource s with
  | true, some src =>
    if pushFaults s then .next (settlePins h (stackFaultReset s))
    else .next (closeSlot false comparing h (takeInterrupt src s))
  | _, _ => runInstr comparing h s

/-- HALT mode (R352, R356): a release continues as RUN mode in the same slot. -/
def haltSlot (c : Nibble) (h : HostSlot) (s : State) : Answer State :=
  if haltRelease c s.req s then runSlot h { s with mode := .run }
  else .next (slotDevices false false h s)

/-- `STOP_WAIT_CLOCKS` in slots (R365): (TMM + 1) × m / 16; m is not stated for the external clock (log entry 2). -/
def stopWaitSlots (s : State) : Nat :=
  if s.timer.tmck = 3 then Config.externalStopWait s.slot
  else (s.timer.tmm.toNat + 1) * countDivisor s.timer.tmck / 16

/-- STOP mode (R361, R363, R365): a release starts the wait; only pins and an external serial clock act. -/
def stopSlot (c : Nibble) (h : HostSlot) (s : State) : State :=
  if stopRelease c s.req s then stoppedDevices h { s with mode := .wait .afterStop (stopWaitSlots s) }
  else stoppedDevices h s

/-- The match that ends a stabilization wait clears TMC. It sets IRQTM after a reset (R463), after STOP by the open
parameter `STOP_WAIT_SETS_IRQTM` (R365). It toggles the output flip-flop after STOP (R410); after a reset that keeps its
reset value 1 (R92, R463, log entry 9). -/
def waitEnds (kind : WaitKind) (s : State) : State :=
  { s with
    mode := .run
    timer := { s.timer with
      tmc := 0
      tmout := match kind with
        | .afterReset => s.timer.tmout
        | .afterStop => !s.timer.tmout }
    req := { s.req with tm := s.req.tm || match kind with
      | .afterReset => true
      | .afterStop => s.chip.stopWaitSetsIrqtm } }

/-- One slot of a stabilization wait (R463, R365); the host may prolong it (D16). -/
def waitSlot (kind : WaitKind) (left : Nat) (h : HostSlot) (s : State) : State :=
  let t := slotDevices false false h s
  if h.prolongWait then t
  else if left ≤ 1 then waitEnds kind t
  else { t with mode := .wait kind (left - 1) }

/-- Step 2 of R491 by the mode. -/
def modeSlot (h : HostSlot) (s : State) : Answer State :=
  match s.mode with
  | .run => runSlot h s
  | .halt c => haltSlot c h s
  | .stop c => .next (stopSlot c h s)
  | .wait kind left => .next (waitSlot kind left h s)

/-- One step (R491): reset events win, then the delayed view, then the mode. -/
def cycle (s : State) : Answer State :=
  let h := currentSlot s
  let t := openSlot s
  match resetPhase h t with
  | some u => .next u
  | none => modeSlot h (latchRequests { t with pins := { t.pins with reset := true } })

end Sys2Proof.Machine
end

