-- ==== Sys2Proof/Machine/Step.lean ====
section
/-! DEFINITION. The step of the machine and the placing of one instruction where it fetches. -/
namespace Sys2Proof.Machine

/-- One step of the machine: `cycle` (R491). -/
def step (s : State) : Host.Outcome State Fault Refusal := cycle s

/-- The state with the instruction whose bits are `w` in program memory at pc, where the step fetches. Every instruction
is one word (R150), so `nbits` is 16. -/
def State.withFetchWord (s : State) (_nbits w : Nat) : State :=
  { s with rom := cellWrite romDefault s.pc.toNat (BitVec.ofNat 16 w) s.rom }

end Sys2Proof.Machine
end

