-- ==== Sys2Proof/Safety.lean ====
section
/-! DEFINITION. The terms statements are made in: the nibble a data memory address stores, what a store of one nibble
changes, the invariant of the machine, and a safe run. -/
namespace Sys2Proof.Machine

/-- The nibble stored at a data memory address, whatever a read of it returns: data memory, the port latches, the system
register (R106, R111). -/
def storedNibble (s : State) (a : DataAddr) : Nibble :=
  match region s.chip.part a with
  | .ram | .unmounted => ramRead s.ram a.toNat
  | .port p => portLatch s p
  | .system => sysRead s a

/-- The bits of a system register nibble that exist (R35, R45). -/
def existingBits (a : DataAddr) : Nibble :=
  match a.toNat with
  | 0x75 => 0b0011
  | 0x76 | 0x77 | 0x78 | 0x7C | 0x7E | 0x7F => 0b1111
  | 0x7A => 0b1000
  | 0x7B => 0b0111
  | _ => 0

/-- What an address holds after a write of `v`: all of it in data memory and in the latches of ports 0A to 0D, nothing
where no memory is mounted (R108), the existing bits in the system register (R45), the bits of pins in output mode in
port 0E, or both bits under `P0E_INPUT_WRITE = latched` (R390). -/
def keptNibble (s : State) (a : DataAddr) (v : Nibble) : Nibble :=
  match region s.chip.part a with
  | .ram => v
  | .unmounted => storedNibble s a
  | .port .e =>
    let taken : Nibble := if s.chip.p0eInputWrite = .latched then 0b0011 else lowPair s.ports.ebio
    (v &&& taken) ||| (storedNibble s a &&& ~~~taken)
  | .port _ => v
  | .system => v &&& existingBits a

/-- `t` is `s` but for the nibble stored at `dest`: every register, flag, mode, latch and memory nibble that is not that
nibble is as before, and every other address reads as before. -/
def WritesOnly (dest : DataAddr) (s t : State) : Prop :=
  t = { s with ar := t.ar, wr := t.wr, mpe := t.mpe, ix := t.ix, rprow := t.rprow, psw := t.psw, ram := t.ram,
               ports := t.ports } ∧
  t.ports = { s.ports with latchA := t.ports.latchA, latchB := t.ports.latchB, latchC := t.ports.latchC,
                           latchD := t.ports.latchD, latchE := t.ports.latchE } ∧
  ∀ a : DataAddr, a ≠ dest → storedNibble t a = storedNibble s a ∧ ∀ site, memRead t site a = memRead s site a

/-- `t` is `s` after a store of `v` to `dest` (R110). -/
def StoresNibble (s : State) (dest : DataAddr) (v : Nibble) (t : State) : Prop :=
  WritesOnly dest s t ∧ storedNibble t dest = keptNibble s dest v

/-- What the commit of an arithmetic result leaves (R197, R194): with CMP = 1 the flags alone; a result stored to PSW
(7FH) alone; else the flags and the stored result. `cy` and `res` are the outputs of R192. -/
def CommitsArith (dest : DataAddr) (cy : Bool) (res : Nibble) (s t : State) : Prop :=
  let z := if res ≠ 0 then false else if s.psw.cmp then s.psw.z else true
  let flagged : State := { s with psw := { s.psw with cy := cy, z := z } }
  if s.psw.cmp then t = flagged
  else if dest = 0x7F then StoresNibble s 0x7F res t
  else StoresNibble flagged dest res t

/-- The stuck case of R118 does not arise: IXE and MPE are not both 1. -/
def SettingOpen (s : State) : Prop := s.psw.ixe = false ∨ s.mpe = false

/-- The instruction is in Table 7-1 (R115): `r, m` and `m, #n4` forms and the indirect moves. -/
def inTable71 : Instr → Bool
  | .addRM _ _ | .addMI _ _ | .addcRM _ _ | .addcMI _ _ | .subRM _ _ | .subMI _ _ | .subcRM _ _ | .subcMI _ _
  | .orRM _ _ | .orMI _ _ | .andRM _ _ | .andMI _ _ | .xorRM _ _ | .xorMI _ _
  | .skt _ _ | .skf _ _ | .ske _ _ | .skne _ _ | .skge _ _ | .sklt _ _
  | .ld _ _ | .st _ _ | .movIndM _ _ | .movMInd _ _ | .movMI _ _ => true
  | .incAR | .incIX | .rorc _ | .movt | .pushAR | .popAR | .peek _ | .poke _ | .get _ | .put _
  | .br _ | .brAR | .call _ | .callAR | .ret | .retsk | .reti | .ei | .di | .stop _ | .halt _ | .nop => false

/-- The stack has a free level: SP is 1 to 5 (R27, R29). -/
def HasFreeLevel (s : State) : Prop := 1 ≤ s.sp.toNat ∧ s.sp.toNat ≤ 5

/-- The stack holds an entry: SP is 0 to 4 (R27, R29). -/
def HasEntry (s : State) : Prop := s.sp.toNat ≤ 4

/-- `t` is `s` but for the data buffer nibbles, DBF3 to DBF0 at 0CH to 0FH (R52). -/
def WritesBufferOnly (s t : State) : Prop :=
  t = { s with ram := t.ram } ∧ ∀ a : Nat, a ∉ dbfAddrs → ramRead t.ram a = ramRead s.ram a

/-- No request flag set in `s` is clear in `t`. -/
def RequestsStay (s t : State) : Prop :=
  (s.req.sio = true → t.req.sio = true) ∧ (s.req.tm = true → t.req.tm = true) ∧ (s.req.pin = true → t.req.pin = true)

/-- `t` is `s` but for what pins and on-chip devices act on (R491 step 5): the count, prescaler and output flip-flop of the
timer, the running parts of the serial interface, the progress and result of a comparison, request flags set, pins, and
bit 1 of the latch of port 0D, where SO lies (R438). What only a program writes (mode bits, modulo register, the other
latch bits) is kept. -/
def DevicesOnly (s t : State) : Prop :=
  t = { s with
    timer := { s.timer with tmc := t.timer.tmc, presc := t.timer.presc, tmout := t.timer.tmout }
    serial := { s.serial with siots := t.serial.siots, siosfr := t.serial.siosfr, count := t.serial.count,
                              armed := t.serial.armed, sdiv := t.serial.sdiv, sckPrev := t.serial.sckPrev }
    comparator := { s.comparator with strt := t.comparator.strt, rslt := t.comparator.rslt, busy := t.comparator.busy,
                                      disturbed := t.comparator.disturbed }
    req := t.req
    pins := t.pins
    intPrev := t.intPrev
    ports := { s.ports with latchD := t.ports.latchD } } ∧
  RequestsStay s t ∧ ∀ n : Nat, n ≠ 1 → t.ports.latchD.getLsbD n = s.ports.latchD.getLsbD n

/-- `t` is what pins and devices leave of `s` at the end of a slot in which the system clock runs (R491 step 5, R402, R411,
R440): the levels of the pins; the levels of INT, which the external count clock counts (one at most with `single`, R406);
the prescaler; the levels of P0D; the internal serial clock. Where the levels of P0D stand in this order is log entry 12. -/
def ClockedEnd (single : Bool) (h : HostSlot) (s t : State) : Prop :=
  t = serialSlot (h.dLevels.foldl dLevel (timerSlot (intLevels true single h.intLevels (sampleLevels h s))))

/-- `t` is what pins and devices leave of `s` at the end of a slot without a system clock (R363, R491 step 5): the levels
of INT, not counted, and of P0D. -/
def StoppedEnd (h : HostSlot) (s t : State) : Prop :=
  t = h.dLevels.foldl dLevel (intLevels false false h.intLevels (sampleLevels h s))

/-- `t` is `s` after step 5 of R491, by the mode of `s`: the devices act as the clock allows, and on nothing a program
holds; in RUN mode the comparator last when a comparison was running as the slot started (`comparing`, R421). -/
def SlotEnd (single comparing : Bool) (h : HostSlot) (s t : State) : Prop :=
  DevicesOnly s t ∧
  (s.mode = .run → ∃ u, ClockedEnd single h s u ∧ t = if comparing then comparatorSlot u else u) ∧
  (∀ c, s.mode = .halt c → ClockedEnd single h s t) ∧
  (∀ kind left, s.mode = .wait kind left → ClockedEnd single h s t) ∧
  (∀ c, s.mode = .stop c → StoppedEnd h s t)

/-- `t` is `s` with the pins at the last levels the host reports in `h` and no edge seen (R88, log entries 13 and 25). -/
def PinsSettled (h : HostSlot) (s t : State) : Prop :=
  t = { s with
    pins := t.pins
    intPrev := t.pins.int
    serial := { s.serial with sckPrev := t.pins.d.getLsbD 0 } } ∧
  t.pins.reset = h.resetLevels.getLastD s.pins.reset ∧ t.pins.int = h.intLevels.getLastD s.pins.int ∧
  t.pins.a = h.a.getD s.pins.a ∧ t.pins.b = h.b.getD s.pins.b ∧ t.pins.c = h.c.getD s.pins.c ∧
  t.pins.d = h.dLevels.getLastD s.pins.d ∧ t.pins.e = h.e.getD s.pins.e ∧
  t.pins.cmpHigher = h.cmpHigher.getD s.pins.cmpHigher

/-- What the three columns of R92 state alike of the registers after a reset: `ctrl` is the value of TMEN, IRQTM,
CMPVREF3 and CMPRSLT. Program memory and the chip are as before. -/
def ResetRegisters (ctrl : Bool) (s t : State) : Prop :=
  t.chip = s.chip ∧ t.rom = s.rom ∧ t.pc = 0 ∧ t.skipNext = false ∧ t.sp = 5 ∧ t.ar = 0 ∧ t.mpe = false ∧ t.ix = 0 ∧
  t.rprow = 0 ∧ t.psw = .clear ∧
  (t.ports.abio = 0 ∧ t.ports.bgio = false ∧ t.ports.cbio = 0 ∧ t.ports.dbio = 0 ∧ t.ports.ebio = 0 ∧
    t.ports.cidi = 0) ∧
  t.pdresen = false ∧ t.iegmd = 0 ∧
  (t.timer.tmen = ctrl ∧ t.timer.tmck = 0 ∧ t.timer.tmosel = false ∧ t.timer.tmm = 0xFF ∧ t.timer.tmout = true) ∧
  (t.serial.sioen = false ∧ t.serial.siots = false ∧ t.serial.siohiz = false ∧ t.serial.siock = 0 ∧ t.serial.count = 0 ∧
    t.serial.armed = false ∧ t.serial.sckPrev = t.pins.d.getLsbD 0) ∧
  t.comparator = ⟨0, nibble ctrl false false false, false, ctrl, 0, false⟩ ∧
  t.req = ⟨false, ctrl, false⟩ ∧ t.irqSeen = t.req ∧ t.irqLast = t.req ∧ t.en = .none ∧ t.inte = false ∧ t.eiDelay = 0 ∧
  t.intPrev = t.pins.int

/-- All output latches are 0. -/
def LatchesClear (t : State) : Prop :=
  t.ports.latchA = 0 ∧ t.ports.latchB = 0 ∧ t.ports.latchC = 0 ∧ t.ports.latchD = 0 ∧ t.ports.latchE = 0

/-- The levels on P0D that clock the bits in, most significant first, over SCK (P0D0) and SI (P0D2): SCK falls and rises
once for each bit (R434). -/
def clockIn (bits : List Bool) : List Nibble :=
  bits.flatMap fun b => [nibble false b false false, nibble false b false true]

/-- The operand of HALT has no reserved bit (R311). -/
def legalHalt (h : Nibble) : Bool := !h.getLsbD 2 && !h.getLsbD 0

/-- The operand of STOP has no reserved bit (R310). -/
def legalStop (c : Nibble) : Bool := c == 0 || c == 8

/-- The standby operand held in the mode is a defined one (R310, R311). -/
def legalMode : Mode → Bool
  | .run | .wait _ _ => true
  | .halt h => legalHalt h
  | .stop c => legalStop c

/-- Every entry of data memory is a nibble. -/
def nibbleCells (ram : List Host.Cell) : Bool := ram.all fun c => decide (c.2.toNat < 16)

/-- The invariant of the machine: both memories in canonical form; the stack pointer at most 5 (R27, R33); the EI delay
at most 2 (R86); a legal standby operand; a pending skip only in RUN mode (R24); a comparison is marked running exactly
while its countdown runs, for at most CMP_CYCLES (R69, R84); a transfer only with the serial interface enabled (R430);
a modulo register that is not 00H (R403). -/
structure Inv (s : State) : Prop where
  ramWf : Memory.wf ramDefault s.chip.part.ramLast s.ram = true
  ramNibbles : nibbleCells s.ram = true
  romWf : Memory.wf romDefault 0x3FF s.rom = true
  spLegal : s.sp.toNat ≤ 5
  eiLegal : s.eiDelay.toNat ≤ 2
  modeLegal : legalMode s.mode = true
  skipRuns : s.skipNext = true → s.mode = .run
  comparing : s.comparator.strt = decide (0 < s.comparator.busy)
  comparingBound : s.comparator.busy ≤ s.chip.part.cmpCycles
  serialEnabled : s.serial.siots = true → s.serial.sioen = true
  moduloNonzero : s.timer.tmm ≠ 0

/-- `n` steps from `s` meet no fault and no refusal. -/
def SafeFor (n : Nat) (s : State) : Prop := ∃ t, Sys2Proof.core.run n s = .next t

/-- A reset event comes in the slot that starts in `s`: RESET falls, the supply comes up, or it drops while PDRESEN = 1
(R461, R462). -/
def ResetComes (s : State) : Prop :=
  resetFalls s.pins.reset (currentSlot s).resetLevels = true ∨ (currentSlot s).power = some .powerOn ∨
    (currentSlot s).power = some .powerDown ∧ s.pdresen = true

/-- RESET is high at the end of the slot that starts in `s`. -/
def EndsHigh (s : State) : Prop := (currentSlot s).resetLevels.getLastD s.pins.reset = true

/-- The rising edges in a list of levels that follows the level `before`. -/
def risingEdges (before : Bool) : List Bool → Nat
  | [] => 0
  | now :: rest => (!before && now).toNat + risingEdges now rest

/-- No reset event takes the slot that starts in `s`: RESET is high and stays high, no supply reset (R491 step 0). -/
def NoReset (s : State) : Prop := resetPhase (currentSlot s) (openSlot s) = none

/-- The state at the instruction boundary of a slot without a reset: the slot opened, the delayed view of the request
flags taken (R491 steps 0 and 1). -/
def atBoundary (s : State) : State := latchRequests { openSlot s with pins := { s.pins with reset := true } }

/-- The state in which the instruction of a slot executes, or in which a skipped word is passed: pc past the word (R491
step 2b). -/
def afterFetch (s : State) : State := advancePc (atBoundary s)

/-- No interrupt is accepted at this boundary (R337). -/
def NoAccept (s : State) : Prop := acceptEnabled s = false ∨ pendingSource s = none

end Sys2Proof.Machine
end

