-- ==== Sys2Proof/Certificates/Slice0/Obligations.lean ====
section
/-! DEFINITION. The statements for the provers: encoding, reset, the step, each family of instructions with its frame and
its completion, the devices, the invariant. -/
open Sys2Proof Sys2Proof.Machine

/-! ## Encoding -/

/-- R152, R155: decoding the encoding of a well-formed instruction gives it back, at every operand value. -/
def Obligations.DecodeEncode : Prop :=
  ∀ i : Instr, i.wellFormed = true → decode (encode i) = .ok i

/-- R155: the instruction a word decodes to is well formed and encodes to that word, so no word stands for two and none
is read with a field dropped. -/
def Obligations.EncodeDecode : Prop :=
  ∀ (w : Word) (i : Instr), decode w = .ok i → encode i = w ∧ i.wellFormed = true

/-- R157: exactly the words of its cases (a) to (d) are rejected, each by its name. That case (d), BR and CALL with
operand bit 10 set, is undefined is the spec's decision D12 (R163), and that undefined words have no meaning its
decision D11 (log entry 15). -/
def Obligations.UndefinedWords : Prop :=
  ∀ w : Word,
    (decode w = .error .unassignedOpcode ↔ w.op ∈ [0x0D#5, 0x0E#5, 0x0F#5, 0x17#5]) ∧
    (decode w = .error .unassignedSubOpcode ↔ w.op = 7 ∧ (w.f2 = 0 ∨ w.f2 = 6)) ∧
    (decode w = .error .fixedFieldMismatch ↔ w.op = 7 ∧
      (w.f2 ∈ [0x1#4, 0x4#4, 0x5#4, 0x8#4, 0x9#4, 0xC#4, 0xD#4] ∧ ¬ (w.f1 = 0 ∧ w.f3 = 0) ∨
       w.f2 = 7 ∧ w.f1 ≠ 0 ∨
       w.f2 = 0xE ∧ ¬ (w.f1 ∈ [0#3, 1#3, 4#3] ∧ w.f3 = 0) ∨
       w.f2 = 0xF ∧ ¬ (w.f1 ∈ [0#3, 1#3, 4#3] ∧ w.f3 = 0 ∨ w.f1 = 2 ∨ w.f1 = 3))) ∧
    (decode w = .error .branchOperandBit10 ↔ (w.op = 0x0C ∨ w.op = 0x1C) ∧ w.getLsbD 10 = true)

/-- Machine words the spec prints beside the instruction they stand for (R200, R201, R246, R255, R276, R281, R290, R295,
R299, R305, R311, R312). -/
def Obligations.PrintedWords : Prop :=
  decode 0x02F3 = .ok (.addRM 3 0x2F) ∧ decode 0x82F5 = .ok (.addMI 0x2F 5) ∧ decode 0x4A40 = .ok (.ske 0x24 0) ∧
  decode 0x3870 = .ok (.rorc 0) ∧ decode 0x3B23 = .ok (.poke 0x33) ∧ decode 0x38B1 = .ok (.get 1) ∧
  decode 0x600F = .ok (.br 0x0F) ∧ decode 0xE120 = .ok (.call 0x120) ∧ decode 0x3CE0 = .ok .reti ∧
  decode 0x38F0 = .ok .ei ∧ decode 0x3BF8 = .ok (.halt 8) ∧ decode 0x3CF0 = .ok .nop

/-! ## The invariant -/

/-- The machine after reset has the invariant. What the spec leaves open at reset is at the values of log entries 3
to 6 and 10. -/
def Obligations.ResetHasInvariant : Prop := Inv State.reset

/-- Every step keeps the invariant: both memories canonical and of nibbles and words, a legal stack pointer, EI
delay, standby operand and modulo register, a skip pending only in RUN mode, a comparison marked running exactly
while it runs, a transfer only with the serial interface enabled. The parts of it that rest on decisions of the spec:
SP at most 5 (D4), the standby operands (D17), the modulo register (D21), the serial interface (D24). -/
def Obligations.StepKeepsInvariant : Prop :=
  ∀ s t : State, Inv s → step s = .next t → Inv t

/-! ## Reset -/

/-- R461, R462, R92 columns PinReset and PinResetStandby, R93: RESET falling, power-on, or power-down while PDRESEN =
1 resets the machine at the first step of its slot, whatever it was doing, and starts the stabilization wait; data
memory other than DBF, WR and SIOSFR are retained from standby, SIOSFR at the value HALT or STOP noted in `retained`
(HaltInstruction, StopInstruction, StopInitializes; log entry 29). While RESET is held low nothing moves but the
pins, and power-down with PDRESEN = 0 does nothing. That a reset takes its slot with no edge seen is log entry 13,
the length of 4096 slots decision D16 with log entries 11 and 21. That several reset events in one slot are one
reset, by the mode in which the slot starts, is log entry 30. -/
def Obligations.PinReset : Prop :=
  ∀ s : State,
    (NoReset s ↔ ¬ ResetComes s ∧ EndsHigh s) ∧
    (ResetComes s → ∃ t, step s = .next t ∧ ResetRegisters true s t ∧ LatchesClear t ∧ t.timer.tmc = 0 ∧
      t.mode = .wait .afterReset 4096 ∧
      (∀ h, s.mode = .halt h ∨ s.mode = .stop h →
        t.wr = s.wr ∧ t.serial.siosfr = s.serial.retained ∧
        ∀ a : Nat, a ∉ dbfAddrs → ramRead t.ram a = ramRead s.ram a)) ∧
    (¬ ResetComes s → ¬ EndsHigh s → ∃ t, step s = .next t ∧ PinsSettled (currentSlot s) (openSlot s) t)

/-- R92 column StackFaultReset, R464: the state after a stack fault reset; TMEN, IRQTM, CMPVREF3 and CMPRSLT by the
open parameter of 92 OPEN-1; no stabilization wait. That the faulting instruction adds nothing to it is decision D4. -/
def Obligations.StackFaultReset : Prop :=
  ∀ s : State, ResetRegisters (s.chip.stackFaultCtrl == .asPinReset) s (stackFaultReset s) ∧
    (stackFaultReset s).mode = .run

/-- R29, R321, R464: a push faults exactly when SP is 0, 6 or 7, a pop exactly when SP is 5, 6 or 7; an instruction
whose push or pop faults, and POKE SP of 6 or 7, leaves exactly the stack fault reset. The fault of a push at 6 or 7,
of a pop and of POKE, at that instruction, which does not complete, is the spec's decision D4 (R33, log entry 14). -/
def Obligations.StackFaultReplaces : Prop :=
  ∀ (i : Instr) (s : State), i.wellFormed = true →
    (pushFaults s = true ↔ s.sp ∈ [0#3, 6, 7]) ∧ (popFaults s = true ↔ s.sp ∈ [5#3, 6, 7]) ∧
    (raisesStackFault i s = true → exec i s = .next (stackFaultReset s))

/-! ## The step -/

/-- R491 1, 2b, 2c: in RUN mode, with no reset, no interrupt accepted and no skip pending, the step runs the
instruction the word at pc decodes to, with pc past the word (decision D1) and the delayed view of the request flags
taken (R95, decision D14), then ends the slot (its end, and the second slot of MOVT, are SlotEndMovesDevices); a word
that decodes to nothing is refused (R157, decision D11). Log entries 14 and 15. -/
def Obligations.StepRunsDecoded : Prop :=
  ∀ s : State, NoReset s → NoAccept s → s.mode = .run → s.skipNext = false →
    afterFetch s = { s with pc := s.pc + 1, irqSeen := s.irqLast, irqLast := s.req, inputs := s.inputs.tail,
                            slot := s.slot + 1, pins := { s.pins with reset := true } } ∧
    (∀ i : Instr, decode (romRead s s.pc) = .ok i →
      step s = match exec i (afterFetch s) with
        | .next u => .next (finishInstr i (decide (0 < s.comparator.busy)) (currentSlot s) (afterFetch s) u)
        | .fault r => .fault r
        | .refused r => .refused r) ∧
    (∀ e : DecodeError, decode (romRead s s.pc) = .error e → step s = .refused .undefinedEncoding)

/-- R491 steps 4 and 5, R363, R402, R411, R421, R440: after an instruction other than MOVT that raised no stack
fault, the rest of its slot counts the EI delay, takes the host's levels and moves the devices: in RUN and HALT mode
INT, the timer and the serial interface, in RUN mode the comparator when a comparison was running as the slot
started, in STOP mode INT and an external serial clock alone (`SlotEnd`). The slot of GET TMC counts one external
pulse at most (R406). Every register, flag, mode bit and memory a program holds stays as the instruction left it.
MOVT takes a second slot (R490, 2c): the delayed view is taken and steps 4 and 5 run again, with no acceptance
between, unless a reset takes that slot. That events come after the instruction is decisions D10 and D18, the place
of the P0D levels in the order log entry 12, the one pulse of GET TMC log entry 17. After a stack fault reset (2d)
the pins settle and nothing else moves, which is the model's choice (log entry 25). -/
def Obligations.SlotEndMovesDevices : Prop :=
  ∀ (i : Instr) (comparing : Bool) (h : HostSlot) (before after : State),
    (sampleLevels h after = { after with pins := { after.pins with
      a := h.a.getD after.pins.a, b := h.b.getD after.pins.b, c := h.c.getD after.pins.c, e := h.e.getD after.pins.e,
      cmpHigher := h.cmpHigher.getD after.pins.cmpHigher } }) ∧
    (raisesStackFault i before = true → PinsSettled h after (finishInstr i comparing h before after)) ∧
    (raisesStackFault i before = false → i ≠ .movt →
      SlotEnd (decide (i = .get 0x02)) comparing h (tickEi after) (finishInstr i comparing h before after)) ∧
    (raisesStackFault .movt before = false → ∃ mid, SlotEnd false comparing h (tickEi after) mid ∧
      (NoReset mid → SlotEnd false (decide (0 < mid.comparator.busy)) (currentSlot mid) (tickEi (atBoundary mid))
        (finishInstr .movt comparing h before after)) ∧
      (¬ NoReset mid → step mid = .next (finishInstr .movt comparing h before after)))

/-- R24: with a skip pending the step passes the word at pc as a no-operation of one slot, whose end is that of R491
steps 4 and 5. That the word is not decoded, whatever it is (a skipped MOVT takes one slot, an undefined word is
harmless), is the spec's decision D3 (log entry 14). -/
def Obligations.StepSkips : Prop :=
  ∀ s : State, NoReset s → s.mode = .run → s.skipNext = true →
    ∃ t, step s = .next t ∧
      SlotEnd false (decide (0 < s.comparator.busy)) (currentSlot s) (tickEi { afterFetch s with skipNext := false }) t ∧
      t.pc = s.pc + 1 ∧ t.skipNext = false

/-- R337, R338: an acceptable request takes the slot: pc pushed (the value at the boundary is decision D20), PSWORD
saved and cleared, INTE cleared, pc at the vector of the source; besides, the slot ends as R491 step 5 says. With no
free stack level the slot is the stack fault reset (R321; SP of 6 or 7 is decision D4), in which the pins settle (log
entry 25). Log entry 14. -/
def Obligations.StepAcceptsInterrupt : Prop :=
  ∀ (s : State) (src : IrqSource), NoReset s → s.mode = .run → s.inte = true → s.eiDelay = 0 → s.skipNext = false →
    pendingSource s = some src →
    (HasFreeLevel s → ∃ t, step s = .next t ∧
      SlotEnd false (decide (0 < s.comparator.busy)) (currentSlot s) (takeInterrupt src (atBoundary s)) t ∧
      t.pc = vectorAddr src ∧ t.sp = s.sp - 1 ∧ asrRead t t.sp = s.pc ∧ t.intsk = s.psw ∧ t.psw = .clear ∧
      t.inte = false) ∧
    (¬ HasFreeLevel s → ∃ t, step s = .next t ∧
      PinsSettled (currentSlot s) (stackFaultReset (atBoundary s)) t)

/-- R335, R325: INT has priority over the timer and the timer over the serial interface; their vectors are 3, 2 and 1;
acceptance clears the request flag of the source and no other. -/
def Obligations.InterruptPriority : Prop :=
  ∀ s : State,
    (s.req.pin = true ∧ s.en.pin = true → pendingSource s = some .pin) ∧
    (¬ (s.req.pin = true ∧ s.en.pin = true) ∧ s.req.tm = true ∧ s.en.tm = true → pendingSource s = some .tm) ∧
    (¬ (s.req.pin = true ∧ s.en.pin = true) ∧ ¬ (s.req.tm = true ∧ s.en.tm = true) ∧ s.req.sio = true ∧
      s.en.sio = true → pendingSource s = some .sio) ∧
    (¬ (s.req.pin = true ∧ s.en.pin = true) ∧ ¬ (s.req.tm = true ∧ s.en.tm = true) ∧
      ¬ (s.req.sio = true ∧ s.en.sio = true) → pendingSource s = none) ∧
    (vectorAddr .pin = 3 ∧ vectorAddr .tm = 2 ∧ vectorAddr .sio = 1) ∧
    ((takeInterrupt .pin s).req = { s.req with pin := false } ∧ (takeInterrupt .tm s).req = { s.req with tm := false } ∧
      (takeInterrupt .sio s).req = { s.req with sio := false })

/-- R299, R338: RETI undoes an acceptance: pc, SP and the five flags are as they were before it. That INTSK is one
register without a counter is decision D5, the pushed pc decision D20. -/
def Obligations.RetiUndoesAcceptance : Prop :=
  ∀ (s : State) (src : IrqSource), HasFreeLevel s →
    ∃ t, exec .reti (takeInterrupt src s) = .next t ∧ t.pc = s.pc ∧ t.sp = s.sp ∧ t.psw = s.psw

/-- R352, R356, R402, R411, R440: in HALT mode a step without a release condition (HaltInstruction says which) keeps
the mode and the whole program state, while the timer and the serial interface run; with one it is the step RUN mode
would make. -/
def Obligations.HaltStep : Prop :=
  ∀ (s : State) (h : Nibble), NoReset s → s.mode = .halt h →
    (haltRelease h s.req s = false → ∃ t, step s = .next t ∧ SlotEnd false false (currentSlot s) (atBoundary s) t) ∧
    (haltRelease h s.req s = true → step s = step { s with mode := .run })

/-- R361, R363, R365: in STOP mode a step without a release condition (StopInstruction says which; that IRQTM does
not release is decision D15) keeps the mode and the whole program state, the timer stands still, and INT and an
external serial clock alone act; with one the stabilization wait begins, in the same slot and with the same devices.
With an internal count clock of m system clocks it lasts (TMM + 1) × m of them, counted in slots of 16: decision D16
and log entry 21; with the external one its length is open (log entry 2). -/
def Obligations.StopStep : Prop :=
  ∀ (s : State) (c : Nibble), NoReset s → s.mode = .stop c →
    (∃ t, step s = .next t ∧ t.pc = s.pc ∧ t.timer = s.timer ∧
      (stopRelease c s.req s = false → SlotEnd false false (currentSlot s) (atBoundary s) t) ∧
      (stopRelease c s.req s = true →
        let u := { atBoundary s with mode := .wait .afterStop (stopWaitSlots (atBoundary s)) }
        DevicesOnly u t ∧ StoppedEnd (currentSlot s) u t)) ∧
    (∀ m ∈ [(0#2, 256), (1#2, 32), (2#2, 2048)], s.timer.tmck = m.1 →
      stopWaitSlots (atBoundary s) = (s.timer.tmm.toNat + 1) * m.2 / 16)

/-- R463, R365, R402, R411, R440: in a stabilization wait nothing executes: a step moves pins, timer and serial
interface alone and keeps every register, flag and memory a program holds. The wait counts down one slot at a time,
unless the host prolongs it (decision D16, log entry 21). Until its last slot IRQTM and TMOUT stay; then RUN mode
starts with TMC cleared, IRQTM set after a reset and after STOP by the open parameter STOP_WAIT_SETS_IRQTM (OPEN-2),
TMOUT toggled after STOP and kept after a reset. That the match stands at the end of the wait is log entry 9. -/
def Obligations.WaitStep : Prop :=
  ∀ (s : State) (kind : WaitKind) (left : Nat), NoReset s → s.mode = .wait kind left →
    ∃ t u, step s = .next t ∧ SlotEnd false false (currentSlot s) (atBoundary s) u ∧
      DevicesOnly { atBoundary s with mode := t.mode } t ∧
      ((currentSlot s).prolongWait = true → t = u ∧ t.mode = .wait kind left) ∧
      ((currentSlot s).prolongWait = false → 2 ≤ left → t = { u with mode := .wait kind (left - 1) }) ∧
      ((currentSlot s).prolongWait = true ∨ 2 ≤ left → t.req.tm = s.req.tm ∧ t.timer.tmout = s.timer.tmout) ∧
      ((currentSlot s).prolongWait = false → left ≤ 1 →
        t = { u with
          mode := .run
          timer := { u.timer with tmc := 0, tmout := t.timer.tmout }
          req := { u.req with tm := t.req.tm } } ∧
        (kind = .afterReset → t.req.tm = true ∧ t.timer.tmout = s.timer.tmout) ∧
        (kind = .afterStop → t.req.tm = (s.req.tm || s.chip.stopWaitSetsIrqtm) ∧ t.timer.tmout = !s.timer.tmout))

/-! ## Addresses and memory -/

/-- R50, R116, R117: the addresses of the operand forms: the general register is never modified; m is ORed with IX when
IXE = 1; the row of @r is that of m, or MP when MPE = 1, or the row of m ORed with that of IX when IXE = 1. -/
def Obligations.OperandAddresses : Prop :=
  ∀ (s : State) (r : RegNum) (m : DataAddr),
    generalReg s r = s.rprow ++ r ∧
    (s.psw.ixe = false → eaM s m = m) ∧
    (s.psw.ixe = true → eaM s m = m ||| s.ix) ∧
    (s.psw.ixe = false → s.mpe = false →
      eaInd s m r = m.extractLsb' 4 3 ++ memRead s .column (generalReg s r)) ∧
    (s.psw.ixe = false → s.mpe = true →
      eaInd s m r = s.ix.extractLsb' 4 3 ++ memRead s .column (generalReg s r)) ∧
    (s.psw.ixe = true → s.mpe = false →
      eaInd s m r = (m ||| s.ix).extractLsb' 4 3 ++ memRead s .column (generalReg s r))

/-- R110, R111, R108, R45, R390: a write to data memory stores what the address can hold and leaves every other nibble,
register, flag and latch; data memory then reads the value, the system register its existing bits. -/
def Obligations.WriteStoresOneNibble : Prop :=
  ∀ (s : State) (site : Draw) (a : DataAddr) (v : Nibble),
    StoresNibble s a v (memWrite s a v) ∧
    (a.toNat ≤ s.chip.part.ramLast → memRead (memWrite s a v) site a = v) ∧
    (0x74 ≤ a.toNat → memRead (memWrite s a v) site a = v &&& existingBits a)

/-- R101: a program address reads the stored word where program memory is mounted, FFFFH beyond. The placing of a
word stands for the load from outside (log entry 7). -/
def Obligations.ProgramMemory : Prop :=
  ∀ (s : State) (a : CodeAddr) (nbits w : Nat),
    (a.toNat ≤ s.chip.part.romLast → a = s.pc →
      romRead (s.withFetchWord nbits w) a = BitVec.ofNat 16 w) ∧
    (a ≠ s.pc → romRead (s.withFetchWord nbits w) a = romRead s a) ∧
    (s.chip.part.romLast < a.toNat → romRead s a = 0xFFFF)

/-! ## The arithmetic unit -/

/-- R192, BCD = 0: carry and result are the sum, borrow and result the difference, exactly. -/
def Obligations.BinaryArithmetic : Prop :=
  ∀ (a b : Nibble) (c : Bool),
    16 * (aluAdd false a b c).1.toNat + (aluAdd false a b c).2.toNat = a.toNat + b.toNat + c.toNat ∧
    ((aluSub false a b c).2.toNat : Int) - 16 * ((aluSub false a b c).1.toNat : Int) = a.toNat - b.toNat - c.toNat

/-- R195, BCD = 1: Table 11-2 in full, the results of an addition by the true sum 0 to 31, of a subtraction by the true
difference -16 to 15. -/
def Obligations.DecimalArithmetic : Prop :=
  ∀ (a b : Nibble) (c : Bool),
    (let t := a.toNat + b.toNat + c.toNat
     (aluAdd true a b c).1 = decide (10 ≤ t) ∧
     [0x0#4, 0x1, 0x2, 0x3, 0x4, 0x5, 0x6, 0x7, 0x8, 0x9, 0x0, 0x1, 0x2, 0x3, 0x4, 0x5, 0x6, 0x7, 0x8, 0x9,
      0xE, 0xF, 0xC, 0xD, 0xE, 0xF, 0xC, 0xD, 0xA, 0xB, 0xC, 0xD][t]? = some (aluAdd true a b c).2) ∧
    (let t : Int := (a.toNat : Int) - b.toNat - c.toNat
     (aluSub true a b c).1 = decide (¬ (0 ≤ t ∧ t ≤ 9)) ∧
     [0xE#4, 0xF, 0xC, 0xD, 0xE, 0xF, 0x0, 0x1, 0x2, 0x3, 0x4, 0x5, 0x6, 0x7, 0x8, 0x9,
      0x0, 0x1, 0x2, 0x3, 0x4, 0x5, 0x6, 0x7, 0x8, 0x9, 0xC, 0xD, 0xE, 0xF, 0xC, 0xD][(t + 16).toNat]? =
        some (aluSub true a b c).2)

/-! ## The instructions -/

/-- R118: every instruction of Table 7-1 is stuck while IXE = 1 and MPE = 1 (the spec's decision D8). -/
def Obligations.SettingDisabled : Prop :=
  ∀ (i : Instr) (s : State), inTable71 i = true → ¬ SettingOpen s → exec i s = .fault .settingDisabled

/-- R200 to R203, R197: ADD and ADDC complete; the sum (binary or decimal by BCD, with CY added by ADDC) goes to the
first operand unless CMP = 1, CY and Z by it, and nothing else changes. With the destination PSW (7FH) the stored
nibble alone counts (R49, R194), where 93 section 8 says otherwise: log entry 19. IXE = MPE = 1 is SettingDisabled. -/
def Obligations.AddInstructions : Prop :=
  ∀ s : State, SettingOpen s →
    (∀ (r : RegNum) (m : DataAddr),
      encode (.addRM r m) = 0b00000#5 ++ m ++ r ∧ encode (.addcRM r m) = 0b00010#5 ++ m ++ r ∧
      let a := memRead s .first (generalReg s r)
      let b := memRead s .second (eaM s m)
      (∃ t, exec (.addRM r m) s = .next t ∧
        CommitsArith (generalReg s r) (aluAdd s.psw.bcd a b false).1 (aluAdd s.psw.bcd a b false).2 s t) ∧
      (∃ t, exec (.addcRM r m) s = .next t ∧
        CommitsArith (generalReg s r) (aluAdd s.psw.bcd a b s.psw.cy).1 (aluAdd s.psw.bcd a b s.psw.cy).2 s t)) ∧
    (∀ (m : DataAddr) (n4 : Nibble),
      encode (.addMI m n4) = 0b10000#5 ++ m ++ n4 ∧ encode (.addcMI m n4) = 0b10010#5 ++ m ++ n4 ∧
      let a := memRead s .first (eaM s m)
      (∃ t, exec (.addMI m n4) s = .next t ∧
        CommitsArith (eaM s m) (aluAdd s.psw.bcd a n4 false).1 (aluAdd s.psw.bcd a n4 false).2 s t) ∧
      (∃ t, exec (.addcMI m n4) s = .next t ∧
        CommitsArith (eaM s m) (aluAdd s.psw.bcd a n4 s.psw.cy).1 (aluAdd s.psw.bcd a n4 s.psw.cy).2 s t))

/-- R220 to R223, R197: SUB and SUBC complete; the difference (binary or decimal by BCD, less CY for SUBC) goes to
the first operand unless CMP = 1, CY as the borrow and Z by it, and nothing else changes. With the destination PSW
(7FH) the stored nibble alone counts (R49, R194), where 93 section 8 says otherwise: log entry 19. IXE = MPE = 1 is
SettingDisabled. -/
def Obligations.SubtractInstructions : Prop :=
  ∀ s : State, SettingOpen s →
    (∀ (r : RegNum) (m : DataAddr),
      encode (.subRM r m) = 0b00001#5 ++ m ++ r ∧ encode (.subcRM r m) = 0b00011#5 ++ m ++ r ∧
      let a := memRead s .first (generalReg s r)
      let b := memRead s .second (eaM s m)
      (∃ t, exec (.subRM r m) s = .next t ∧
        CommitsArith (generalReg s r) (aluSub s.psw.bcd a b false).1 (aluSub s.psw.bcd a b false).2 s t) ∧
      (∃ t, exec (.subcRM r m) s = .next t ∧
        CommitsArith (generalReg s r) (aluSub s.psw.bcd a b s.psw.cy).1 (aluSub s.psw.bcd a b s.psw.cy).2 s t)) ∧
    (∀ (m : DataAddr) (n4 : Nibble),
      encode (.subMI m n4) = 0b10001#5 ++ m ++ n4 ∧ encode (.subcMI m n4) = 0b10011#5 ++ m ++ n4 ∧
      let a := memRead s .first (eaM s m)
      (∃ t, exec (.subMI m n4) s = .next t ∧
        CommitsArith (eaM s m) (aluSub s.psw.bcd a n4 false).1 (aluSub s.psw.bcd a n4 false).2 s t) ∧
      (∃ t, exec (.subcMI m n4) s = .next t ∧
        CommitsArith (eaM s m) (aluSub s.psw.bcd a n4 s.psw.cy).1 (aluSub s.psw.bcd a n4 s.psw.cy).2 s t))

/-- R206, R207: INC AR and INC IX add 1 modulo 1024 and 128. That no flag and nothing else changes is the spec's decision
D6. -/
def Obligations.IncrementInstructions : Prop :=
  ∀ s : State,
    (∃ t, exec .incAR s = .next t ∧ t = { s with ar := t.ar } ∧ t.ar.toNat = (s.ar.toNat + 1) % 1024) ∧
    (∃ t, exec .incIX s = .next t ∧ t = { s with ix := t.ix } ∧ t.ix.toNat = (s.ix.toNat + 1) % 128)

/-- R230 to R235: OR, AND and XOR complete; the bitwise result goes to the first operand whatever CMP is; no flag but a
stored one, and nothing else, changes. -/
def Obligations.LogicalInstructions : Prop :=
  ∀ s : State, SettingOpen s →
    (∀ (r : RegNum) (m : DataAddr),
      encode (.orRM r m) = 0b00110#5 ++ m ++ r ∧ encode (.andRM r m) = 0b00100#5 ++ m ++ r ∧
      encode (.xorRM r m) = 0b00101#5 ++ m ++ r ∧
      let a := memRead s .first (generalReg s r)
      let b := memRead s .second (eaM s m)
      (∃ t, exec (.orRM r m) s = .next t ∧ StoresNibble s (generalReg s r) (a ||| b) t) ∧
      (∃ t, exec (.andRM r m) s = .next t ∧ StoresNibble s (generalReg s r) (a &&& b) t) ∧
      (∃ t, exec (.xorRM r m) s = .next t ∧ StoresNibble s (generalReg s r) (a ^^^ b) t)) ∧
    (∀ (m : DataAddr) (n4 : Nibble),
      encode (.orMI m n4) = 0b10110#5 ++ m ++ n4 ∧ encode (.andMI m n4) = 0b10100#5 ++ m ++ n4 ∧
      encode (.xorMI m n4) = 0b10101#5 ++ m ++ n4 ∧
      let a := memRead s .first (eaM s m)
      (∃ t, exec (.orMI m n4) s = .next t ∧ StoresNibble s (eaM s m) (a ||| n4) t) ∧
      (∃ t, exec (.andMI m n4) s = .next t ∧ StoresNibble s (eaM s m) (a &&& n4) t) ∧
      (∃ t, exec (.xorMI m n4) s = .next t ∧ StoresNibble s (eaM s m) (a ^^^ n4) t))

/-- R241, R242: SKT and SKF complete; CMP is reset, the next word is skipped when every bit of the mask is 1 (SKT) or 0
(SKF), and nothing else changes. -/
def Obligations.JudgementInstructions : Prop :=
  ∀ (s : State) (m : DataAddr) (n : Nibble), SettingOpen s →
    encode (.skt m n) = 0b11110#5 ++ m ++ n ∧ encode (.skf m n) = 0b11111#5 ++ m ++ n ∧
    exec (.skt m n) s = .next { s with
      psw := { s.psw with cmp := false },
      skipNext := decide (memRead s .first (eaM s m) &&& n = n) || s.skipNext } ∧
    exec (.skf m n) s = .next { s with
      psw := { s.psw with cmp := false },
      skipNext := decide (memRead s .first (eaM s m) &&& n = 0) || s.skipNext }

/-- R246 to R249: SKE, SKNE, SKGE and SKLT complete; the next word is skipped when the nibble compares so, unsigned, and
nothing else changes. -/
def Obligations.ComparisonInstructions : Prop :=
  ∀ (s : State) (m : DataAddr) (n4 : Nibble), SettingOpen s →
    encode (.ske m n4) = 0b01001#5 ++ m ++ n4 ∧ encode (.skne m n4) = 0b01011#5 ++ m ++ n4 ∧
    encode (.skge m n4) = 0b11001#5 ++ m ++ n4 ∧ encode (.sklt m n4) = 0b11011#5 ++ m ++ n4 ∧
    let v := memRead s .first (eaM s m)
    exec (.ske m n4) s = .next { s with skipNext := decide (v = n4) || s.skipNext } ∧
    exec (.skne m n4) s = .next { s with skipNext := decide (v ≠ n4) || s.skipNext } ∧
    exec (.skge m n4) s = .next { s with skipNext := decide (n4.toNat ≤ v.toNat) || s.skipNext } ∧
    exec (.sklt m n4) s = .next { s with skipNext := decide (v.toNat < n4.toNat) || s.skipNext }

/-- R255: RORC completes; the general register rotates right through CY and nothing else changes. The order of the two
writes when the register is PSW is the spec's decision D13. -/
def Obligations.RotateInstruction : Prop :=
  ∀ (s : State) (r : RegNum),
    let a := memRead s .first (generalReg s r)
    ∃ u, StoresNibble s (generalReg s r)
        (nibble s.psw.cy (a.getLsbD 3) (a.getLsbD 2) (a.getLsbD 1)) u ∧
      exec (.rorc r) s = .next { u with psw := { u.psw with cy := a.getLsbD 0 } }

/-- R260, R261, R264: LD, ST and MOV m, #n4 complete; the nibble moves whatever CMP and BCD are, and nothing else
changes. -/
def Obligations.LoadStoreInstructions : Prop :=
  ∀ (s : State) (r : RegNum) (m : DataAddr) (n4 : Nibble), SettingOpen s →
    encode (.ld r m) = 0b01000#5 ++ m ++ r ∧ encode (.st m r) = 0b11000#5 ++ m ++ r ∧
    encode (.movMI m n4) = 0b11101#5 ++ m ++ n4 ∧
    (∃ t, exec (.ld r m) s = .next t ∧ StoresNibble s (generalReg s r) (memRead s .second (eaM s m)) t) ∧
    (∃ t, exec (.st m r) s = .next t ∧ StoresNibble s (eaM s m) (memRead s .second (generalReg s r)) t) ∧
    (∃ t, exec (.movMI m n4) s = .next t ∧ StoresNibble s (eaM s m) n4 t)

/-- R262, R263: the indirect moves complete: MOV @r, m stores the nibble at m to the indirect address, MOV m, @r the nibble
at the indirect address to m, and nothing else changes. -/
def Obligations.IndirectMoves : Prop :=
  ∀ (s : State) (r : RegNum) (m : DataAddr), SettingOpen s →
    encode (.movIndM r m) = 0b01010#5 ++ m ++ r ∧ encode (.movMInd m r) = 0b11010#5 ++ m ++ r ∧
    (∃ t, exec (.movIndM r m) s = .next t ∧ StoresNibble s (eaInd s m r) (memRead s .second (eaM s m)) t) ∧
    (∃ t, exec (.movMInd m r) s = .next t ∧ StoresNibble s (eaM s m) (memRead s .second (eaInd s m r)) t)

/-- R270, R321: MOVT completes with a free stack level: DBF holds the program memory word at AR; pc and SP end as
they were, the stack level used keeps the return address, nothing else changes. Without one it is the stack fault
reset and DBF is not loaded by it. The fault at SP of 6 or 7 is decision D4, and pc past the word decision D1. -/
def Obligations.TableReference : Prop :=
  ∀ s : State, encode .movt = 0x3810 ∧
    (HasFreeLevel s → ∃ t, exec .movt s = .next t ∧
      WritesBufferOnly { s with asr := s.asr.setIfInBounds (s.sp - 1).toNat s.pc } t ∧ dbfRead t = romRead s s.ar) ∧
    (¬ HasFreeLevel s → exec .movt s = .next (stackFaultReset s))

/-- R272, R273, R29: PUSH AR and POP AR complete on a free level and on an entry: SP moves by one, AR goes to or comes
from the address stack register at the lower level, nothing else changes. -/
def Obligations.PushPop : Prop :=
  ∀ s : State,
    (HasFreeLevel s → exec .pushAR s = .next { s with
      sp := s.sp - 1, asr := s.asr.setIfInBounds (s.sp - 1).toNat s.ar }) ∧
    (HasEntry s → exec .popAR s = .next { s with ar := asrRead s s.sp, sp := s.sp + 1 })

/-- R272, R273, R295 to R297: POP AR after PUSH AR restores AR and SP, and RET after CALL continues at the word after the
CALL at the stack level of the caller, whatever AR or pc held in between. -/
def Obligations.StackRoundTrip : Prop :=
  ∀ (s t : State) (addr : BranchOperand) (x : CodeAddr), HasFreeLevel s →
    (exec .pushAR s = .next t → ∃ u, exec .popAR { t with ar := x } = .next u ∧ u.ar = s.ar ∧ u.sp = s.sp) ∧
    (exec (.call addr) s = .next t ∨ exec .callAR s = .next t →
      ∃ u, exec .ret { t with pc := x } = .next u ∧ u.pc = s.pc ∧ u.sp = s.sp)

/-- R290, R291: BR and BR @AR complete and set pc alone. The refusal of BR with operand bit 10 set is the spec's decision
D12. -/
def Obligations.BranchInstructions : Prop :=
  ∀ (s : State) (addr : BranchOperand),
    (addr.getLsbD 10 = false →
      exec (.br addr) s = .next { s with pc := addr.setWidth 10 }) ∧
    (addr.getLsbD 10 = true → exec (.br addr) s = .refused .undefinedEncoding) ∧
    exec .brAR s = .next { s with pc := s.ar }

/-- R295, R296: CALL and CALL @AR complete on a free level: SP goes down by one, the address of the next word is
stored there, pc is the target, nothing else changes. The refusal of CALL with operand bit 10 set is the spec's
decision D12. pc holds the address of the next word by decision D1. -/
def Obligations.CallInstructions : Prop :=
  ∀ (s : State) (addr : BranchOperand),
    (addr.getLsbD 10 = false → HasFreeLevel s → exec (.call addr) s = .next { s with
      sp := s.sp - 1, asr := s.asr.setIfInBounds (s.sp - 1).toNat s.pc, pc := addr.setWidth 10 }) ∧
    (addr.getLsbD 10 = true → exec (.call addr) s = .refused .undefinedEncoding) ∧
    (HasFreeLevel s → exec .callAR s = .next { s with
      sp := s.sp - 1, asr := s.asr.setIfInBounds (s.sp - 1).toNat s.pc, pc := s.ar })

/-- R297 to R299: RET, RETSK and RETI complete on an entry: pc comes from the address stack and SP goes up by one; RETSK
also skips the next word, RETI also restores the five flags from INTSK, leaving INTSK (decision D5); nothing else
changes. -/
def Obligations.ReturnInstructions : Prop :=
  ∀ s : State, HasEntry s →
    exec .ret s = .next { s with pc := asrRead s s.sp, sp := s.sp + 1 } ∧
    exec .retsk s = .next { s with pc := asrRead s s.sp, sp := s.sp + 1, skipNext := true } ∧
    exec .reti s = .next { s with pc := asrRead s s.sp, sp := s.sp + 1, psw := s.intsk }

/-- R275, R125, R126: PEEK completes, writes WR alone, and reads the control register nibble below 40H and the data
memory nibble of the same address, unmodified, from 40H on. Of the control registers: INT gives the level of the pin
(R62), the timer mode register reads TMRES as 0 (R64), and on the parts with a comparator its registers read CMPCH,
CMPVREF, CMPSTRT with CMPRSLT, and P0CIDI (R67 to R71). -/
def Obligations.PeekInstruction : Prop :=
  ∀ (s : State) (rf : DataAddr), encode (.peek rf) = 0b00111#5 ++ rf.extractLsb' 4 3 ++ 0b0011#4 ++ rf.extractLsb' 0 4 ∧
    ∃ t, exec (.peek rf) s = .next t ∧ t = { s with wr := t.wr } ∧
      (rf.toNat < 0x40 → t.wr = ctrlRead s .window rf) ∧
      (0x40 ≤ rf.toNat → t.wr = memRead s .window rf) ∧
      (rf = 0x0F → t.wr = 0#3 ++ BitVec.ofBool s.pins.int) ∧
      (rf = 0x11 → t.wr = BitVec.ofBool s.timer.tmen ++ 0#1 ++ s.timer.tmck) ∧
      (s.chip.part.hasComparator = true →
        (rf = 0x1C → t.wr = 0#2 ++ s.comparator.ch) ∧ (rf = 0x1D → t.wr = s.comparator.vref) ∧
        (rf = 0x1E → t.wr = 0#2 ++ BitVec.ofBool s.comparator.strt ++ BitVec.ofBool s.comparator.rslt) ∧
        (rf = 0x23 → t.wr = s.ports.cidi))

/-- R276, R126: POKE to 40H to 7FH completes as a store of WR to the data memory nibble of that address, unmodified. -/
def Obligations.PokeDataMemory : Prop :=
  ∀ (s : State) (rf : DataAddr), 0x40 ≤ rf.toNat →
    ∃ t, exec (.poke rf) s = .next t ∧ StoresNibble s rf s.wr t

/-- R276, R60 to R80: POKE to each control register without an action completes and writes its storing bits alone;
POKE to any other address below 40H, the INT flag among them, changes nothing. -/
def Obligations.PokeControlRegisters : Prop :=
  ∀ s : State,
    (s.wr.toNat % 8 ≤ 5 → exec (.poke 0x01) s = .next { s with sp := s.wr.extractLsb' 0 3 }) ∧
    exec (.poke 0x10) s = .next { s with pdresen := s.wr.getLsbD 0 } ∧
    exec (.poke 0x12) s = .next { s with timer := { s.timer with tmosel := s.wr.getLsbD 0 } } ∧
    exec (.poke 0x1F) s = .next { s with iegmd := s.wr.extractLsb' 0 2 } ∧
    exec (.poke 0x24) s = .next { s with ports := { s.ports with bgio := s.wr.getLsbD 0 } } ∧
    exec (.poke 0x2F) s = .next { s with en := ⟨s.wr.getLsbD 2, s.wr.getLsbD 1, s.wr.getLsbD 0⟩ } ∧
    exec (.poke 0x32) s = .next { s with ports := { s.ports with ebio := s.wr.extractLsb' 0 2 } } ∧
    exec (.poke 0x33) s = .next { s with ports := { s.ports with dbio := s.wr } } ∧
    exec (.poke 0x34) s = .next { s with ports := { s.ports with cbio := s.wr } } ∧
    exec (.poke 0x35) s = .next { s with ports := { s.ports with abio := s.wr } } ∧
    exec (.poke 0x3D) s = .next { s with req := { s.req with sio := s.wr.getLsbD 0 } } ∧
    exec (.poke 0x3E) s = .next { s with req := { s.req with tm := s.wr.getLsbD 0 } } ∧
    exec (.poke 0x3F) s = .next { s with req := { s.req with pin := s.wr.getLsbD 0 } } ∧
    (∀ rf : DataAddr, rf.toNat < 0x40 → rf ∉ [0x01, 0x0A, 0x10, 0x11, 0x12, 0x1A, 0x1C, 0x1D, 0x1E, 0x1F, 0x23, 0x24,
        0x2F, 0x32, 0x33, 0x34, 0x35, 0x3D, 0x3E, 0x3F] → exec (.poke rf) s = .next s)

/-- R276, R125: PEEK of a control register after POKE to it reads back WR in the bits that store something, the others as
0: SP, SIOEN, PDRESEN, TMEN and TMCK, TMOSEL, SIOTS to SIOCK, IEGMD, the port modes, the enable and request flags. -/
def Obligations.PeekAfterPoke : Prop :=
  ∀ (s t : State) (rf : DataAddr) (mask : Nibble),
    (rf, mask) ∈ [(0x01#7, 0x7#4), (0x0A, 0x1), (0x10, 0x1), (0x11, 0xB), (0x12, 0x1), (0x1A, 0xF), (0x1F, 0x3),
      (0x24, 0x1), (0x2F, 0x7), (0x32, 0x3), (0x33, 0xF), (0x34, 0xF), (0x35, 0xF), (0x3D, 0x1), (0x3E, 0x1),
      (0x3F, 0x1)] →
    ¬ (rf = 0x01 ∧ 6 ≤ s.wr.toNat % 8) → exec (.poke rf) s = .next t →
    ∃ u, exec (.peek rf) t = .next u ∧ u.wr = s.wr &&& mask

/-- R67 to R71, R81, R421, R423: POKE to the comparator's registers completes: CMPCH and CMPVREF are written unless a
comparison runs, CMPSTRT written 1 starts one for CMP_CYCLES slots unless one runs (that it is then ignored is
decision D23), P0CIDI is written; on a part without a comparator nothing changes. The cleared mark `disturbed` is the
model's own (log entry 18). -/
def Obligations.PokeComparator : Prop :=
  ∀ s : State,
    (s.chip.part.hasComparator = false → ∀ rf ∈ [0x1C#7, 0x1D, 0x1E, 0x23], exec (.poke rf) s = .next s) ∧
    (s.chip.part.hasComparator = true →
      exec (.poke 0x1C) s = .next (if s.comparator.strt then s
        else { s with comparator := { s.comparator with ch := s.wr.extractLsb' 0 2 } }) ∧
      exec (.poke 0x1D) s = .next (if s.comparator.strt then s
        else { s with comparator := { s.comparator with vref := s.wr } }) ∧
      exec (.poke 0x1E) s = .next (if s.wr.getLsbD 1 && !s.comparator.strt
        then { s with comparator := { s.comparator with
                 strt := true, busy := s.chip.part.cmpCycles, disturbed := false } }
        else s) ∧
      exec (.poke 0x23) s = .next { s with ports := { s.ports with cidi := s.wr } })

/-- R61, R430, R433: POKE to SIOEN and to the serial mode register: the writes that complete, with the start and the
stop of the shift register. Three clauses rest on the spec's decision D24 (log entries 14 and 15): that SIOTS written
1 while a transfer runs clears IRQSIO and does not restart it, and the two misuses, which are refused. -/
def Obligations.PokeSerial : Prop :=
  ∀ s : State,
    (s.serial.siots = false ∨ s.wr.getLsbD 0 = true → exec (.poke 0x0A) s = .next
      { s with serial := { s.serial with sioen := s.wr.getLsbD 0 } }) ∧
    (s.serial.siots = true → s.wr.getLsbD 0 = false → exec (.poke 0x0A) s = .refused .serialEnableMisuse) ∧
    (s.wr.getLsbD 3 = true → s.serial.sioen = true → s.serial.siots = false → exec (.poke 0x1A) s = .next
      { s with
        serial := { s.serial with siohiz := s.wr.getLsbD 2, siock := s.wr.extractLsb' 0 2, siots := true, count := 0,
                                  armed := false }
        req := { s.req with sio := false } }) ∧
    (s.wr.getLsbD 3 = true → s.serial.sioen = true → s.serial.siots = true → exec (.poke 0x1A) s = .next
      { s with
        serial := { s.serial with siohiz := s.wr.getLsbD 2, siock := s.wr.extractLsb' 0 2 }
        req := { s.req with sio := false } }) ∧
    (s.wr.getLsbD 3 = false → exec (.poke 0x1A) s = .next
      { s with serial := { s.serial with siohiz := s.wr.getLsbD 2, siock := s.wr.extractLsb' 0 2, siots := false } }) ∧
    (s.wr.getLsbD 3 = true → s.serial.sioen = false → exec (.poke 0x1A) s = .refused .serialEnableMisuse)

/-- R64, R404, R407: POKE to the timer mode register completes: TMEN and TMCK are written; TMRES written 1 clears TMC
and IRQTM and sets the output flip-flop, as the last action; without TMRES a start while the count signal is low
counts one pulse at once; nothing but TMC, TMOUT, IRQTM and these bits changes. The signal is low in the first half
of the period of an internal count clock, and while INT is low with the external one. TMRES last, and where the
signal is low, are decision D21 (R404); no pulse for a changed TMCK is log entry 26. -/
def Obligations.PokeTimerMode : Prop :=
  ∀ s : State, ∃ t, exec (.poke 0x11) s = .next t ∧
    t = { s with timer := { s.timer with tmen := s.wr.getLsbD 3, tmck := s.wr.extractLsb' 0 2, tmc := t.timer.tmc,
                                         tmout := t.timer.tmout }
                 req := { s.req with tm := t.req.tm } } ∧
    (s.wr.getLsbD 2 = true → t.timer.tmc = 0 ∧ t.timer.tmout = true ∧ t.req.tm = false) ∧
    (s.wr.getLsbD 2 = false → s.timer.tmen = true ∨ s.wr.getLsbD 3 = false →
      t.timer.tmc = s.timer.tmc ∧ t.timer.tmout = s.timer.tmout ∧ t.req = s.req) ∧
    (s.wr.getLsbD 2 = false → s.timer.tmen = false → s.wr.getLsbD 3 = true →
      let u := { s with timer := { s.timer with tmen := true, tmck := s.wr.extractLsb' 0 2 } }
      (t = if countSignalLow u then countPulse u else u) ∧
      (∀ m ∈ [(0#2, 256), (1#2, 32), (2#2, 2048)], s.wr.extractLsb' 0 2 = m.1 →
        countSignalLow u = decide (s.timer.presc.toNat % m.2 < m.2 / 2)) ∧
      (s.wr.extractLsb' 0 2 = 3 → countSignalLow u = !s.pins.int))

/-- R281, R131, R132, R133: GET completes and writes DBF alone: an 8-bit register fills DBF1 and DBF0 and leaves DBF3
and DBF2, AR fills all of DBF with its six high bits 0. That an unassigned address completes too, with free values in
DBF, is decision D9 (R133, log entry 14). -/
def Obligations.GetInstruction : Prop :=
  ∀ (s : State) (p : DataAddr), ∃ t, exec (.get p) s = .next t ∧ WritesBufferOnly s t ∧
    (p = 0x01 → dbfRead t = (dbfRead s).extractLsb' 8 8 ++ s.serial.siosfr) ∧
    (p = 0x02 → dbfRead t = (dbfRead s).extractLsb' 8 8 ++ s.timer.tmc) ∧
    (p = 0x03 → (dbfRead t).extractLsb' 8 8 = (dbfRead s).extractLsb' 8 8) ∧
    (p = 0x40 → dbfRead t = s.ar.setWidth 16)

/-- R282, R133, R403, R432: PUT completes on every peripheral address: SIOSFR takes DBF1 and DBF0 while no transfer runs
and an open value during one (decision D24), TMM
takes them unless they are 00H (refused, the spec's decision D21), AR takes the low ten bits of DBF, TMC and an unassigned
address (decision D9) take nothing; nothing else changes. -/
def Obligations.PutInstruction : Prop :=
  ∀ s : State,
    (s.serial.siots = false → exec (.put 0x01) s = .next
      { s with serial := { s.serial with siosfr := (dbfRead s).extractLsb' 0 8 } }) ∧
    (s.serial.siots = true → ∃ t, exec (.put 0x01) s = .next t ∧
      t = { s with serial := { s.serial with siosfr := t.serial.siosfr } }) ∧
    ((dbfRead s).extractLsb' 0 8 ≠ 0 → exec (.put 0x03) s = .next
      { s with timer := { s.timer with tmm := (dbfRead s).extractLsb' 0 8 } }) ∧
    ((dbfRead s).extractLsb' 0 8 = 0 → exec (.put 0x03) s = .refused .timerModuloZero) ∧
    exec (.put 0x40) s = .next { s with ar := (dbfRead s).extractLsb' 0 10 } ∧
    (∀ p : DataAddr, p ∉ [0x01, 0x03, 0x40] → exec (.put p) s = .next s)

/-- R305, R306, R86: EI starts the delay and changes nothing else: INTE is as before at the end of its slot and 1 at the
end of the slot after it; DI clears INTE at once and, by the spec's decision D7, cancels a pending EI. -/
def Obligations.InterruptInstructions : Prop :=
  ∀ s : State,
    exec .ei s = .next { s with eiDelay := 2 } ∧
    exec .di s = .next { s with inte := false, eiDelay := 0 } ∧
    tickEi { s with eiDelay := 2 } = { s with eiDelay := 1 } ∧
    tickEi { s with eiDelay := 1 } = { s with eiDelay := 0, inte := true } ∧
    tickEi { s with eiDelay := 0 } = { s with eiDelay := 0 }

/-- R311, R352, R93: HALT with a defined operand completes: a no-operation when the delayed view of the request flags
releases it (decision D14, R95), else HALT mode with everything else kept but that SIOSFR is noted for a reset in
standby (log entry 29) and a comparison in progress is marked disturbed (decision D23, R426, log entry 18); a
reserved operand is refused (the spec's decision D17). The release condition in full: b3 and a request that is
enabled, or b1 and IRQTM. -/
def Obligations.HaltInstruction : Prop :=
  ∀ (s : State) (h : Nibble),
    (∀ f : IrqBits, haltRelease h f s = true ↔
      h.getLsbD 3 = true ∧ (f.pin = true ∧ s.en.pin = true ∨ f.tm = true ∧ s.en.tm = true ∨
        f.sio = true ∧ s.en.sio = true) ∨
      h.getLsbD 1 = true ∧ f.tm = true) ∧
    (h ∈ [0b0000#4, 0b0010, 0b1000, 0b1010] → haltRelease h s.irqSeen s = true → exec (.halt h) s = .next s) ∧
    (h ∈ [0b0000#4, 0b0010, 0b1000, 0b1010] → haltRelease h s.irqSeen s = false → exec (.halt h) s = .next
      { s with
        mode := .halt h
        serial := { s.serial with retained := s.serial.siosfr }
        comparator := { s.comparator with
          disturbed := s.comparator.disturbed || decide (0 < s.comparator.busy) } }) ∧
    (h ∉ [0b0000#4, 0b0010, 0b1000, 0b1010] → exec (.halt h) s = .refused .reservedStandbyCondition)

/-- R310, R360, R361, R93: STOP 1000B completes: a no-operation when the delayed view of the request flags releases
it (decision D14, R95), else STOP mode with TMC and IRQTM cleared, SIOSFR noted for a reset in standby (log entry 29)
and the comparison ended, everything else kept (its result when one was running is free: decision D23, R426); a
reserved operand is refused (the spec's decision D17). The release condition in full: b3 and an enabled request of
INT or of the serial interface, never of the timer (decision D15). -/
def Obligations.StopInstruction : Prop :=
  ∀ s : State,
    (∀ (c : Nibble) (f : IrqBits), stopRelease c f s = true ↔
      c.getLsbD 3 = true ∧ (f.pin = true ∧ s.en.pin = true ∨ f.sio = true ∧ s.en.sio = true)) ∧
    (stopRelease 8 s.irqSeen s = true → exec (.stop 8) s = .next s) ∧
    (stopRelease 8 s.irqSeen s = false → ∃ t, exec (.stop 8) s = .next t ∧
      t = { s with
        mode := .stop 8
        serial := { s.serial with retained := s.serial.siosfr }
        timer := { s.timer with tmc := 0 }
        req := { s.req with tm := false }
        comparator := { s.comparator with strt := false, busy := 0, disturbed := false,
                                          rslt := t.comparator.rslt } } ∧
      (s.comparator.busy = 0 → t.comparator.rslt = s.comparator.rslt)) ∧
    (∀ c : Nibble, c ≠ 0 → c ≠ 8 → exec (.stop c) s = .refused .reservedStandbyCondition)

/-- R310, R362, R93: STOP 0000B completes: the registers as after a reset, latches 0, STOP mode with no release
condition, data memory other than DBF, WR and SIOSFR retained (the column is the spec's decision D19), SIOSFR noted
for the reset that follows (log entry 29). -/
def Obligations.StopInitializes : Prop :=
  ∀ s : State, ∃ t, exec (.stop 0) s = .next t ∧ ResetRegisters true s t ∧ LatchesClear t ∧ t.mode = .stop 0 ∧
    t.timer.tmc = 0 ∧ t.wr = s.wr ∧ t.serial.siosfr = s.serial.siosfr ∧ t.serial.retained = s.serial.siosfr ∧
    (∀ a : Nat, a ∉ dbfAddrs → ramRead t.ram a = ramRead s.ram a) ∧ ∀ f u, stopRelease 0 f u = false

/-- R312: NOP completes and changes nothing. -/
def Obligations.NopInstruction : Prop := ∀ s : State, encode .nop = 0x3CF0 ∧ exec .nop s = .next s

/-! ## The devices -/

/-- R405: from a cleared count, the first match comes with the (TMM + 1)-th count pulse: it clears TMC, sets IRQTM and
toggles the output flip-flop; no earlier pulse sets IRQTM. -/
def Obligations.TimerInterval : Prop :=
  ∀ s : State, s.timer.tmc = 0 → s.req.tm = false →
    (∀ k ≤ s.timer.tmm.toNat, (countPulse^[k] s).timer.tmc.toNat = k ∧ (countPulse^[k] s).req.tm = false) ∧
    let t := countPulse^[s.timer.tmm.toNat + 1] s
    t.timer.tmc = 0 ∧ t.req.tm = true ∧ t.timer.tmout = !s.timer.tmout

/-- R401, R404, R406, R411: while TMEN = 1 the count clocks fx/256, fx/32 and fx/2048 count in exactly one of 16, 2
and 128 slots in a row, in RUN, HALT and WAIT alike; with the external clock the prescaler counts nothing, every
rising edge of INT counts one (decision D22), and in the slot of GET TMC at most one (log entry 17). With TMEN = 0
nothing counts. -/
def Obligations.TimerPrescaler : Prop :=
  ∀ s : State,
    (s.timer.tmen = true → s.timer.tmc.toNat + 1 ≤ s.timer.tmm.toNat →
      ∀ c ∈ [(0#2, 16), (1#2, 2), (2#2, 128)], s.timer.tmck = c.1 →
        (timerSlot^[c.2] s).timer.tmc = s.timer.tmc + 1 ∧
        (timerSlot^[c.2] s).timer.presc = s.timer.presc + BitVec.ofNat 11 (16 * c.2)) ∧
    (s.timer.tmck = 3 ∨ s.timer.tmen = false →
      timerSlot s = { s with timer := { s.timer with presc := s.timer.presc + 16 } }) ∧
    (s.timer.tmck = 3 → s.timer.tmen = true → (∀ kind left, s.mode ≠ .wait kind left) → ∀ levels : List Bool,
      (intLevels true false levels s).timer = (countPulse^[risingEdges s.intPrev levels] s).timer ∧
      (intLevels true true levels s).timer = (countPulse^[min 1 (risingEdges s.intPrev levels)] s).timer) ∧
    (s.timer.tmck ≠ 3 ∨ s.timer.tmen = false → ∀ (single : Bool) (levels : List Bool),
      (intLevels true single levels s).timer = s.timer)

/-- R434: an 8-bit transfer with the external clock: eight pulses of SCK put the eight levels of SI into SIOSFR, the first
in bit 7, end the transfer and set IRQSIO; in send mode SO ends at the last bit sent. -/
def Obligations.SerialTransfer : Prop :=
  ∀ (s : State) (v : Byte), s.serial.siots = true → s.serial.sioen = true → s.serial.siock = 0 → s.serial.count = 0 →
    s.serial.armed = false → s.serial.sckPrev = true →
    let bits := [v.getLsbD 7, v.getLsbD 6, v.getLsbD 5, v.getLsbD 4, v.getLsbD 3, v.getLsbD 2, v.getLsbD 1, v.getLsbD 0]
    let t := (clockIn bits).foldl dLevel s
    t.serial.siosfr = v ∧ t.serial.siots = false ∧ t.req.sio = true ∧
    (s.serial.siohiz = false → t.ports.latchD.getLsbD 1 = s.serial.siosfr.getLsbD 0)

/-- R421: a comparison that nothing disturbs ends with its last slot in RUN mode: CMPSTRT reads 1 and CMPRSLT as
before until then, afterwards CMPSTRT 0 and the host's answer. The exact slot is the spec's decision D23 (log entry
14), and a comparison that HALT disturbed is log entry 18. -/
def Obligations.ComparisonEnds : Prop :=
  ∀ s : State, s.comparator.strt = true → s.comparator.disturbed = false → 0 < s.comparator.busy →
    (∀ k < s.comparator.busy, (comparatorSlot^[k] s).comparator.strt = true ∧
      (comparatorSlot^[k] s).comparator.rslt = s.comparator.rslt) ∧
    (comparatorSlot^[s.comparator.busy] s).comparator =
      { s.comparator with strt := false, busy := 0, rslt := s.pins.cmpHigher }

/-- R332: the INT edge detector sets IRQ on a rising edge for IEGMD = 00, on a falling one for 01, on both for 10 and
11, and never clears it; all the levels of a slot pass it in order, whether or not they are counted. -/
def Obligations.IntEdgeDetector : Prop :=
  ∀ (s : State) (now : Bool),
    intEdge now s = { s with
      req := { s.req with pin := (intEdge now s).req.pin }, intPrev := now, pins := { s.pins with int := now } } ∧
    ((intEdge now s).req.pin = true ↔ s.req.pin = true ∨
      s.intPrev = false ∧ now = true ∧ s.iegmd ≠ 1 ∨ s.intPrev = true ∧ now = false ∧ s.iegmd ≠ 0) ∧
    ∀ (counting single : Bool) (levels : List Bool),
      (intLevels counting single levels s).req.pin = (levels.foldl (fun u level => intEdge level u) s).req.pin ∧
      (intLevels counting single levels s).intPrev = levels.getLastD s.intPrev ∧
      (intLevels counting single levels s).pins.int = levels.getLastD s.pins.int

/-- R380 to R387, R390: a read of a port register: ports 0A to 0C, and the pins of 0D that neither the serial
interface nor the timer output uses, give the latch bit of a pin in output mode and the pin level in input mode.
While SIOEN = 1, SCK gives the pin with the external clock and the latch with an internal one, SO a free value and in
receive mode the pin, SI the pin; while TMOSEL = 1, TMOUT gives the latch (R387, Table 12-6). Port 0E always gives
the pins, which an output latch bit of 0 pulls low, and 0 in bits 3 and 2. That P0CnIDI does not matter to a read of
port 0C is the spec's reading (R386). -/
def Obligations.PortRegisters : Prop :=
  ∀ (s : State) (site : Draw) (n : Nat), n < 4 →
    (memRead s site 0x70).getLsbD n = (if s.ports.abio.getLsbD n then s.ports.latchA.getLsbD n else s.pins.a.getLsbD n) ∧
    (memRead s site 0x71).getLsbD n = (if s.ports.bgio then s.ports.latchB.getLsbD n else s.pins.b.getLsbD n) ∧
    (memRead s site 0x72).getLsbD n = (if s.ports.cbio.getLsbD n then s.ports.latchC.getLsbD n else s.pins.c.getLsbD n) ∧
    (n < 3 ∧ s.serial.sioen = false ∨ n = 3 ∧ s.timer.tmosel = false →
      (memRead s site 0x73).getLsbD n =
        (if s.ports.dbio.getLsbD n then s.ports.latchD.getLsbD n else s.pins.d.getLsbD n)) ∧
    (s.serial.sioen = true →
      (memRead s site 0x73).getLsbD 0 =
        (if s.serial.siock = 0 then s.pins.d.getLsbD 0 else s.ports.latchD.getLsbD 0) ∧
      (memRead s site 0x73).getLsbD 1 =
        (if s.serial.siohiz then s.pins.d.getLsbD 1 else (Config.free s.slot site 1).getLsbD 0) ∧
      (memRead s site 0x73).getLsbD 2 = s.pins.d.getLsbD 2) ∧
    (s.timer.tmosel = true → (memRead s site 0x73).getLsbD 3 = s.ports.latchD.getLsbD 3) ∧
    (memRead s site 0x6F).getLsbD n = (decide (n < 2) && s.pins.e.getLsbD n &&
      (!s.ports.ebio.getLsbD n || s.ports.latchE.getLsbD n))

/-- R431, R434, R440: with the internal serial clocks fx/16, fx/128 and fx/1024 a transfer past its first falling edge
shifts exactly once in 1, 8 and 64 slots in a row, whatever the phase of the divider: the level of SI enters at bit 0, and
the eighth shift ends the transfer and sets IRQSIO. In STOP mode a transfer with an internal clock stands still (R363). -/
def Obligations.InternalSerialClock : Prop :=
  ∀ s : State, s.serial.siots = true → s.serial.sioen = true → s.serial.armed = true →
    (∀ c ∈ [(1#2, 1), (2#2, 8), (3#2, 64)], s.serial.siock = c.1 →
      let t := serialSlot^[c.2] s
      t.serial.siosfr = s.serial.siosfr.extractLsb' 0 7 ++ BitVec.ofBool (s.pins.d.getLsbD 2) ∧
      t.serial.count = s.serial.count + 1 ∧
      t.serial.siots = decide (s.serial.count ≠ 7) ∧ t.req.sio = (s.req.sio || decide (s.serial.count = 7))) ∧
    (s.serial.siock ≠ 0 → ∀ h : HostSlot,
      (stoppedDevices h s).serial = { s.serial with sckPrev := (stoppedDevices h s).serial.sckPrev } ∧
      (stoppedDevices h s).req.sio = s.req.sio)
end

