-- ==== Sys2Proof/Laws/Decode.lean ====
section
/-! SUPPORT. Laws about decoding: the words the encoder makes as numbers, and their fields. -/
namespace Sys2Proof

/-- Two vectors side by side, as a number. -/
theorem append_toNat {n m : Nat} (x : BitVec n) (y : BitVec m) : (x ++ y).toNat = x.toNat * 2 ^ m + y.toNat := by
  rw [BitVec.toNat_append, ← Nat.shiftLeft_add_eq_or_of_lt y.isLt, Nat.shiftLeft_eq]

/-- A field of a word, as a number. -/
theorem field_toNat (w : Word) (i n : Nat) : (w.extractLsb' i n).toNat = w.toNat / 2 ^ i % 2 ^ n := by
  rw [BitVec.extractLsb'_toNat, Nat.shiftRight_eq_div_pow]

/-- A word of formats RM and MI, as a number (R151). -/
theorem encodeM_toNat (op : BitVec 5) (m : DataAddr) (f : BitVec 4) :
    (encodeM op m f).toNat = op.toNat * 2048 + m.toNat * 16 + f.toNat := by
  have h : (op ++ m ++ f).toNat = (op.toNat * 2 ^ 7 + m.toNat) * 2 ^ 4 + f.toNat := by
    rw [append_toNat (op ++ m) f, append_toNat op m]
  exact h.trans (by omega)

/-- A word of format MS, as a number (R151). -/
theorem encodeMS_toNat (f1 : BitVec 3) (sub f3 : BitVec 4) :
    (encodeMS f1 sub f3).toNat = 7 * 2048 + f1.toNat * 256 + sub.toNat * 16 + f3.toNat := by
  have h : (0x07#5 ++ f1 ++ sub ++ f3).toNat =
      (((0x07#5).toNat * 2 ^ 3 + f1.toNat) * 2 ^ 4 + sub.toNat) * 2 ^ 4 + f3.toNat := by
    rw [append_toNat (0x07#5 ++ f1 ++ sub) f3, append_toNat (0x07#5 ++ f1) sub, append_toNat 0x07#5 f1]
  have h7 : (0x07#5).toNat = 7 := rfl
  exact h.trans (by omega)

/-- A word of format AD, as a number (R151). -/
theorem encodeAD_toNat (op : BitVec 5) (addr : BranchOperand) :
    (encodeAD op addr).toNat = op.toNat * 2048 + addr.toNat := append_toNat op addr

/-- The opcode of a word of formats RM and MI. -/
@[simp] theorem encodeM_op (op : BitVec 5) (m : DataAddr) (f : BitVec 4) : (encodeM op m f).op = op := by
  apply BitVec.eq_of_toNat_eq
  rw [Word.op, field_toNat, encodeM_toNat]
  omega

/-- The memory operand of a word of formats RM and MI (R161). -/
@[simp] theorem encodeM_fieldM (op : BitVec 5) (m : DataAddr) (f : BitVec 4) : (encodeM op m f).fieldM = m := by
  apply BitVec.eq_of_toNat_eq
  rw [Word.fieldM, field_toNat, encodeM_toNat]
  omega

/-- The low field of a word of formats RM and MI. -/
@[simp] theorem encodeM_f3 (op : BitVec 5) (m : DataAddr) (f : BitVec 4) : (encodeM op m f).f3 = f := by
  apply BitVec.eq_of_toNat_eq
  rw [Word.f3, field_toNat, encodeM_toNat]
  omega

/-- The opcode of a word of format MS. -/
@[simp] theorem encodeMS_op (f1 : BitVec 3) (sub f3 : BitVec 4) : (encodeMS f1 sub f3).op = 7 := by
  apply BitVec.eq_of_toNat_eq
  rw [Word.op, field_toNat, encodeMS_toNat, show (7 : BitVec 5).toNat = 7 from rfl]
  omega

/-- The field f1 of a word of format MS. -/
@[simp] theorem encodeMS_f1 (f1 : BitVec 3) (sub f3 : BitVec 4) : (encodeMS f1 sub f3).f1 = f1 := by
  apply BitVec.eq_of_toNat_eq
  rw [Word.f1, field_toNat, encodeMS_toNat]
  omega

/-- The sub-opcode of a word of format MS. -/
@[simp] theorem encodeMS_f2 (f1 : BitVec 3) (sub f3 : BitVec 4) : (encodeMS f1 sub f3).f2 = sub := by
  apply BitVec.eq_of_toNat_eq
  rw [Word.f2, field_toNat, encodeMS_toNat]
  omega

/-- The field f3 of a word of format MS. -/
@[simp] theorem encodeMS_f3 (f1 : BitVec 3) (sub f3 : BitVec 4) : (encodeMS f1 sub f3).f3 = f3 := by
  apply BitVec.eq_of_toNat_eq
  rw [Word.f3, field_toNat, encodeMS_toNat]
  omega

/-- The opcode of PEEK, POKE, GET and PUT. -/
@[simp] theorem encodeRf_op (sub : BitVec 4) (a : DataAddr) : (encodeRf sub a).op = 7 := encodeMS_op _ _ _

/-- The sub-opcode of PEEK, POKE, GET and PUT. -/
@[simp] theorem encodeRf_f2 (sub : BitVec 4) (a : DataAddr) : (encodeRf sub a).f2 = sub := encodeMS_f2 _ _ _

/-- The split address of PEEK, POKE, GET and PUT (R165, R166). -/
@[simp] theorem encodeRf_fieldRf (sub : BitVec 4) (a : DataAddr) : (encodeRf sub a).fieldRf = a := by
  apply BitVec.eq_of_toNat_eq
  rw [Word.fieldRf, encodeRf, encodeMS_f1, encodeMS_f3]
  refine (append_toNat _ _).trans ?_
  rw [BitVec.extractLsb'_toNat, BitVec.extractLsb'_toNat, Nat.shiftRight_eq_div_pow, Nat.shiftRight_eq_div_pow]
  have := a.isLt
  omega

/-- The opcode of a word of format AD. -/
@[simp] theorem encodeAD_op (op : BitVec 5) (addr : BranchOperand) : (encodeAD op addr).op = op := by
  apply BitVec.eq_of_toNat_eq
  rw [Word.op, field_toNat, encodeAD_toNat]
  omega

/-- The operand of a word of format AD (R163). -/
@[simp] theorem encodeAD_fieldAddr (op : BitVec 5) (addr : BranchOperand) : (encodeAD op addr).fieldAddr = addr := by
  apply BitVec.eq_of_toNat_eq
  rw [Word.fieldAddr, field_toNat, encodeAD_toNat]
  omega

/-- A word rebuilt from its fields by formats RM and MI. -/
theorem encodeM_fields (w : Word) : encodeM w.op w.fieldM w.f3 = w := by
  apply BitVec.eq_of_toNat_eq
  rw [encodeM_toNat]
  simp only [Word.op, Word.fieldM, Word.f3, field_toNat]
  have := w.isLt
  omega

/-- A word of opcode 00111 rebuilt from its fields by format MS. -/
theorem encodeMS_fields (w : Word) (h : w.op = 7) : encodeMS w.f1 w.f2 w.f3 = w := by
  apply BitVec.eq_of_toNat_eq
  rw [encodeMS_toNat]
  have h' : w.op.toNat = 7 := by rw [h]; rfl
  simp only [Word.op, Word.f1, Word.f2, Word.f3, field_toNat] at *
  have := w.isLt
  omega

/-- A word rebuilt from its fields by format AD. -/
theorem encodeAD_fields (w : Word) : encodeAD w.op w.fieldAddr = w := by
  apply BitVec.eq_of_toNat_eq
  rw [encodeAD_toNat]
  simp only [Word.op, Word.fieldAddr, field_toNat]
  have := w.isLt
  omega

end Sys2Proof
end

