-- ==== Sys2Proof/Laws/State.lean ====
section
/-! SUPPORT. Laws about State: for each named update of the state, what every field holds after it, so that no proof
unfolds a record update. -/
namespace Sys2Proof.Machine

@[simp] theorem push_chip (v : CodeAddr) (s : State) : (push v s).chip = s.chip := rfl
@[simp] theorem push_pc (v : CodeAddr) (s : State) : (push v s).pc = s.pc := rfl
@[simp] theorem push_skipNext (v : CodeAddr) (s : State) : (push v s).skipNext = s.skipNext := rfl
@[simp] theorem push_sp (v : CodeAddr) (s : State) : (push v s).sp = s.sp - 1 := rfl
@[simp] theorem push_asr (v : CodeAddr) (s : State) : (push v s).asr = s.asr.setIfInBounds (s.sp - 1).toNat v := rfl
@[simp] theorem push_intsk (v : CodeAddr) (s : State) : (push v s).intsk = s.intsk := rfl
@[simp] theorem push_ar (v : CodeAddr) (s : State) : (push v s).ar = s.ar := rfl
@[simp] theorem push_wr (v : CodeAddr) (s : State) : (push v s).wr = s.wr := rfl
@[simp] theorem push_mpe (v : CodeAddr) (s : State) : (push v s).mpe = s.mpe := rfl
@[simp] theorem push_ix (v : CodeAddr) (s : State) : (push v s).ix = s.ix := rfl
@[simp] theorem push_rprow (v : CodeAddr) (s : State) : (push v s).rprow = s.rprow := rfl
@[simp] theorem push_psw (v : CodeAddr) (s : State) : (push v s).psw = s.psw := rfl
@[simp] theorem push_ram (v : CodeAddr) (s : State) : (push v s).ram = s.ram := rfl
@[simp] theorem push_rom (v : CodeAddr) (s : State) : (push v s).rom = s.rom := rfl
@[simp] theorem push_ports (v : CodeAddr) (s : State) : (push v s).ports = s.ports := rfl
@[simp] theorem push_pdresen (v : CodeAddr) (s : State) : (push v s).pdresen = s.pdresen := rfl
@[simp] theorem push_iegmd (v : CodeAddr) (s : State) : (push v s).iegmd = s.iegmd := rfl
@[simp] theorem push_timer (v : CodeAddr) (s : State) : (push v s).timer = s.timer := rfl
@[simp] theorem push_serial (v : CodeAddr) (s : State) : (push v s).serial = s.serial := rfl
@[simp] theorem push_comparator (v : CodeAddr) (s : State) : (push v s).comparator = s.comparator := rfl
@[simp] theorem push_req (v : CodeAddr) (s : State) : (push v s).req = s.req := rfl
@[simp] theorem push_en (v : CodeAddr) (s : State) : (push v s).en = s.en := rfl
@[simp] theorem push_irqSeen (v : CodeAddr) (s : State) : (push v s).irqSeen = s.irqSeen := rfl
@[simp] theorem push_irqLast (v : CodeAddr) (s : State) : (push v s).irqLast = s.irqLast := rfl
@[simp] theorem push_inte (v : CodeAddr) (s : State) : (push v s).inte = s.inte := rfl
@[simp] theorem push_eiDelay (v : CodeAddr) (s : State) : (push v s).eiDelay = s.eiDelay := rfl
@[simp] theorem push_mode (v : CodeAddr) (s : State) : (push v s).mode = s.mode := rfl
@[simp] theorem push_intPrev (v : CodeAddr) (s : State) : (push v s).intPrev = s.intPrev := rfl
@[simp] theorem push_pins (v : CodeAddr) (s : State) : (push v s).pins = s.pins := rfl
@[simp] theorem push_inputs (v : CodeAddr) (s : State) : (push v s).inputs = s.inputs := rfl
@[simp] theorem push_slot (v : CodeAddr) (s : State) : (push v s).slot = s.slot := rfl

@[simp] theorem pop_chip (s : State) : (pop s).chip = s.chip := rfl
@[simp] theorem pop_pc (s : State) : (pop s).pc = s.pc := rfl
@[simp] theorem pop_skipNext (s : State) : (pop s).skipNext = s.skipNext := rfl
@[simp] theorem pop_sp (s : State) : (pop s).sp = s.sp + 1 := rfl
@[simp] theorem pop_asr (s : State) : (pop s).asr = s.asr := rfl
@[simp] theorem pop_intsk (s : State) : (pop s).intsk = s.intsk := rfl
@[simp] theorem pop_ar (s : State) : (pop s).ar = s.ar := rfl
@[simp] theorem pop_wr (s : State) : (pop s).wr = s.wr := rfl
@[simp] theorem pop_mpe (s : State) : (pop s).mpe = s.mpe := rfl
@[simp] theorem pop_ix (s : State) : (pop s).ix = s.ix := rfl
@[simp] theorem pop_rprow (s : State) : (pop s).rprow = s.rprow := rfl
@[simp] theorem pop_psw (s : State) : (pop s).psw = s.psw := rfl
@[simp] theorem pop_ram (s : State) : (pop s).ram = s.ram := rfl
@[simp] theorem pop_rom (s : State) : (pop s).rom = s.rom := rfl
@[simp] theorem pop_ports (s : State) : (pop s).ports = s.ports := rfl
@[simp] theorem pop_pdresen (s : State) : (pop s).pdresen = s.pdresen := rfl
@[simp] theorem pop_iegmd (s : State) : (pop s).iegmd = s.iegmd := rfl
@[simp] theorem pop_timer (s : State) : (pop s).timer = s.timer := rfl
@[simp] theorem pop_serial (s : State) : (pop s).serial = s.serial := rfl
@[simp] theorem pop_comparator (s : State) : (pop s).comparator = s.comparator := rfl
@[simp] theorem pop_req (s : State) : (pop s).req = s.req := rfl
@[simp] theorem pop_en (s : State) : (pop s).en = s.en := rfl
@[simp] theorem pop_irqSeen (s : State) : (pop s).irqSeen = s.irqSeen := rfl
@[simp] theorem pop_irqLast (s : State) : (pop s).irqLast = s.irqLast := rfl
@[simp] theorem pop_inte (s : State) : (pop s).inte = s.inte := rfl
@[simp] theorem pop_eiDelay (s : State) : (pop s).eiDelay = s.eiDelay := rfl
@[simp] theorem pop_mode (s : State) : (pop s).mode = s.mode := rfl
@[simp] theorem pop_intPrev (s : State) : (pop s).intPrev = s.intPrev := rfl
@[simp] theorem pop_pins (s : State) : (pop s).pins = s.pins := rfl
@[simp] theorem pop_inputs (s : State) : (pop s).inputs = s.inputs := rfl
@[simp] theorem pop_slot (s : State) : (pop s).slot = s.slot := rfl

@[simp] theorem takeInterrupt_chip (src : IrqSource) (s : State) : (takeInterrupt src s).chip = s.chip := rfl
@[simp] theorem takeInterrupt_pc (src : IrqSource) (s : State) : (takeInterrupt src s).pc = vectorAddr src := rfl
@[simp] theorem takeInterrupt_skipNext (src : IrqSource) (s : State) : (takeInterrupt src s).skipNext = s.skipNext := rfl
@[simp] theorem takeInterrupt_sp (src : IrqSource) (s : State) : (takeInterrupt src s).sp = s.sp - 1 := rfl
@[simp] theorem takeInterrupt_asr (src : IrqSource) (s : State) : (takeInterrupt src s).asr = s.asr.setIfInBounds (s.sp - 1).toNat s.pc := rfl
@[simp] theorem takeInterrupt_intsk (src : IrqSource) (s : State) : (takeInterrupt src s).intsk = s.psw := rfl
@[simp] theorem takeInterrupt_ar (src : IrqSource) (s : State) : (takeInterrupt src s).ar = s.ar := rfl
@[simp] theorem takeInterrupt_wr (src : IrqSource) (s : State) : (takeInterrupt src s).wr = s.wr := rfl
@[simp] theorem takeInterrupt_mpe (src : IrqSource) (s : State) : (takeInterrupt src s).mpe = s.mpe := rfl
@[simp] theorem takeInterrupt_ix (src : IrqSource) (s : State) : (takeInterrupt src s).ix = s.ix := rfl
@[simp] theorem takeInterrupt_rprow (src : IrqSource) (s : State) : (takeInterrupt src s).rprow = s.rprow := rfl
@[simp] theorem takeInterrupt_psw (src : IrqSource) (s : State) : (takeInterrupt src s).psw = .clear := rfl
@[simp] theorem takeInterrupt_ram (src : IrqSource) (s : State) : (takeInterrupt src s).ram = s.ram := rfl
@[simp] theorem takeInterrupt_rom (src : IrqSource) (s : State) : (takeInterrupt src s).rom = s.rom := rfl
@[simp] theorem takeInterrupt_ports (src : IrqSource) (s : State) : (takeInterrupt src s).ports = s.ports := rfl
@[simp] theorem takeInterrupt_pdresen (src : IrqSource) (s : State) : (takeInterrupt src s).pdresen = s.pdresen := rfl
@[simp] theorem takeInterrupt_iegmd (src : IrqSource) (s : State) : (takeInterrupt src s).iegmd = s.iegmd := rfl
@[simp] theorem takeInterrupt_timer (src : IrqSource) (s : State) : (takeInterrupt src s).timer = s.timer := rfl
@[simp] theorem takeInterrupt_serial (src : IrqSource) (s : State) : (takeInterrupt src s).serial = s.serial := rfl
@[simp] theorem takeInterrupt_comparator (src : IrqSource) (s : State) : (takeInterrupt src s).comparator = s.comparator := rfl
@[simp] theorem takeInterrupt_req (src : IrqSource) (s : State) : (takeInterrupt src s).req = clearRequest src s.req := rfl
@[simp] theorem takeInterrupt_en (src : IrqSource) (s : State) : (takeInterrupt src s).en = s.en := rfl
@[simp] theorem takeInterrupt_irqSeen (src : IrqSource) (s : State) : (takeInterrupt src s).irqSeen = s.irqSeen := rfl
@[simp] theorem takeInterrupt_irqLast (src : IrqSource) (s : State) : (takeInterrupt src s).irqLast = s.irqLast := rfl
@[simp] theorem takeInterrupt_inte (src : IrqSource) (s : State) : (takeInterrupt src s).inte = false := rfl
@[simp] theorem takeInterrupt_eiDelay (src : IrqSource) (s : State) : (takeInterrupt src s).eiDelay = s.eiDelay := rfl
@[simp] theorem takeInterrupt_mode (src : IrqSource) (s : State) : (takeInterrupt src s).mode = s.mode := rfl
@[simp] theorem takeInterrupt_intPrev (src : IrqSource) (s : State) : (takeInterrupt src s).intPrev = s.intPrev := rfl
@[simp] theorem takeInterrupt_pins (src : IrqSource) (s : State) : (takeInterrupt src s).pins = s.pins := rfl
@[simp] theorem takeInterrupt_inputs (src : IrqSource) (s : State) : (takeInterrupt src s).inputs = s.inputs := rfl
@[simp] theorem takeInterrupt_slot (src : IrqSource) (s : State) : (takeInterrupt src s).slot = s.slot := rfl

@[simp] theorem returnFromInterrupt_chip (s : State) : (returnFromInterrupt s).chip = s.chip := rfl
@[simp] theorem returnFromInterrupt_pc (s : State) : (returnFromInterrupt s).pc = asrRead s s.sp := rfl
@[simp] theorem returnFromInterrupt_skipNext (s : State) : (returnFromInterrupt s).skipNext = s.skipNext := rfl
@[simp] theorem returnFromInterrupt_sp (s : State) : (returnFromInterrupt s).sp = s.sp + 1 := rfl
@[simp] theorem returnFromInterrupt_asr (s : State) : (returnFromInterrupt s).asr = s.asr := rfl
@[simp] theorem returnFromInterrupt_intsk (s : State) : (returnFromInterrupt s).intsk = s.intsk := rfl
@[simp] theorem returnFromInterrupt_ar (s : State) : (returnFromInterrupt s).ar = s.ar := rfl
@[simp] theorem returnFromInterrupt_wr (s : State) : (returnFromInterrupt s).wr = s.wr := rfl
@[simp] theorem returnFromInterrupt_mpe (s : State) : (returnFromInterrupt s).mpe = s.mpe := rfl
@[simp] theorem returnFromInterrupt_ix (s : State) : (returnFromInterrupt s).ix = s.ix := rfl
@[simp] theorem returnFromInterrupt_rprow (s : State) : (returnFromInterrupt s).rprow = s.rprow := rfl
@[simp] theorem returnFromInterrupt_psw (s : State) : (returnFromInterrupt s).psw = s.intsk := rfl
@[simp] theorem returnFromInterrupt_ram (s : State) : (returnFromInterrupt s).ram = s.ram := rfl
@[simp] theorem returnFromInterrupt_rom (s : State) : (returnFromInterrupt s).rom = s.rom := rfl
@[simp] theorem returnFromInterrupt_ports (s : State) : (returnFromInterrupt s).ports = s.ports := rfl
@[simp] theorem returnFromInterrupt_pdresen (s : State) : (returnFromInterrupt s).pdresen = s.pdresen := rfl
@[simp] theorem returnFromInterrupt_iegmd (s : State) : (returnFromInterrupt s).iegmd = s.iegmd := rfl
@[simp] theorem returnFromInterrupt_timer (s : State) : (returnFromInterrupt s).timer = s.timer := rfl
@[simp] theorem returnFromInterrupt_serial (s : State) : (returnFromInterrupt s).serial = s.serial := rfl
@[simp] theorem returnFromInterrupt_comparator (s : State) : (returnFromInterrupt s).comparator = s.comparator := rfl
@[simp] theorem returnFromInterrupt_req (s : State) : (returnFromInterrupt s).req = s.req := rfl
@[simp] theorem returnFromInterrupt_en (s : State) : (returnFromInterrupt s).en = s.en := rfl
@[simp] theorem returnFromInterrupt_irqSeen (s : State) : (returnFromInterrupt s).irqSeen = s.irqSeen := rfl
@[simp] theorem returnFromInterrupt_irqLast (s : State) : (returnFromInterrupt s).irqLast = s.irqLast := rfl
@[simp] theorem returnFromInterrupt_inte (s : State) : (returnFromInterrupt s).inte = s.inte := rfl
@[simp] theorem returnFromInterrupt_eiDelay (s : State) : (returnFromInterrupt s).eiDelay = s.eiDelay := rfl
@[simp] theorem returnFromInterrupt_mode (s : State) : (returnFromInterrupt s).mode = s.mode := rfl
@[simp] theorem returnFromInterrupt_intPrev (s : State) : (returnFromInterrupt s).intPrev = s.intPrev := rfl
@[simp] theorem returnFromInterrupt_pins (s : State) : (returnFromInterrupt s).pins = s.pins := rfl
@[simp] theorem returnFromInterrupt_inputs (s : State) : (returnFromInterrupt s).inputs = s.inputs := rfl
@[simp] theorem returnFromInterrupt_slot (s : State) : (returnFromInterrupt s).slot = s.slot := rfl

@[simp] theorem dbfWriteLow_chip (v : Byte) (s : State) : (dbfWriteLow v s).chip = s.chip := rfl
@[simp] theorem dbfWriteLow_pc (v : Byte) (s : State) : (dbfWriteLow v s).pc = s.pc := rfl
@[simp] theorem dbfWriteLow_skipNext (v : Byte) (s : State) : (dbfWriteLow v s).skipNext = s.skipNext := rfl
@[simp] theorem dbfWriteLow_sp (v : Byte) (s : State) : (dbfWriteLow v s).sp = s.sp := rfl
@[simp] theorem dbfWriteLow_asr (v : Byte) (s : State) : (dbfWriteLow v s).asr = s.asr := rfl
@[simp] theorem dbfWriteLow_intsk (v : Byte) (s : State) : (dbfWriteLow v s).intsk = s.intsk := rfl
@[simp] theorem dbfWriteLow_ar (v : Byte) (s : State) : (dbfWriteLow v s).ar = s.ar := rfl
@[simp] theorem dbfWriteLow_wr (v : Byte) (s : State) : (dbfWriteLow v s).wr = s.wr := rfl
@[simp] theorem dbfWriteLow_mpe (v : Byte) (s : State) : (dbfWriteLow v s).mpe = s.mpe := rfl
@[simp] theorem dbfWriteLow_ix (v : Byte) (s : State) : (dbfWriteLow v s).ix = s.ix := rfl
@[simp] theorem dbfWriteLow_rprow (v : Byte) (s : State) : (dbfWriteLow v s).rprow = s.rprow := rfl
@[simp] theorem dbfWriteLow_psw (v : Byte) (s : State) : (dbfWriteLow v s).psw = s.psw := rfl
@[simp] theorem dbfWriteLow_ram (v : Byte) (s : State) : (dbfWriteLow v s).ram = ramWrite 0x0F (v.extractLsb' 0 4) (ramWrite 0x0E (v.extractLsb' 4 4) s.ram) := rfl
@[simp] theorem dbfWriteLow_rom (v : Byte) (s : State) : (dbfWriteLow v s).rom = s.rom := rfl
@[simp] theorem dbfWriteLow_ports (v : Byte) (s : State) : (dbfWriteLow v s).ports = s.ports := rfl
@[simp] theorem dbfWriteLow_pdresen (v : Byte) (s : State) : (dbfWriteLow v s).pdresen = s.pdresen := rfl
@[simp] theorem dbfWriteLow_iegmd (v : Byte) (s : State) : (dbfWriteLow v s).iegmd = s.iegmd := rfl
@[simp] theorem dbfWriteLow_timer (v : Byte) (s : State) : (dbfWriteLow v s).timer = s.timer := rfl
@[simp] theorem dbfWriteLow_serial (v : Byte) (s : State) : (dbfWriteLow v s).serial = s.serial := rfl
@[simp] theorem dbfWriteLow_comparator (v : Byte) (s : State) : (dbfWriteLow v s).comparator = s.comparator := rfl
@[simp] theorem dbfWriteLow_req (v : Byte) (s : State) : (dbfWriteLow v s).req = s.req := rfl
@[simp] theorem dbfWriteLow_en (v : Byte) (s : State) : (dbfWriteLow v s).en = s.en := rfl
@[simp] theorem dbfWriteLow_irqSeen (v : Byte) (s : State) : (dbfWriteLow v s).irqSeen = s.irqSeen := rfl
@[simp] theorem dbfWriteLow_irqLast (v : Byte) (s : State) : (dbfWriteLow v s).irqLast = s.irqLast := rfl
@[simp] theorem dbfWriteLow_inte (v : Byte) (s : State) : (dbfWriteLow v s).inte = s.inte := rfl
@[simp] theorem dbfWriteLow_eiDelay (v : Byte) (s : State) : (dbfWriteLow v s).eiDelay = s.eiDelay := rfl
@[simp] theorem dbfWriteLow_mode (v : Byte) (s : State) : (dbfWriteLow v s).mode = s.mode := rfl
@[simp] theorem dbfWriteLow_intPrev (v : Byte) (s : State) : (dbfWriteLow v s).intPrev = s.intPrev := rfl
@[simp] theorem dbfWriteLow_pins (v : Byte) (s : State) : (dbfWriteLow v s).pins = s.pins := rfl
@[simp] theorem dbfWriteLow_inputs (v : Byte) (s : State) : (dbfWriteLow v s).inputs = s.inputs := rfl
@[simp] theorem dbfWriteLow_slot (v : Byte) (s : State) : (dbfWriteLow v s).slot = s.slot := rfl

@[simp] theorem dbfWrite_chip (v : Word) (s : State) : (dbfWrite v s).chip = s.chip := rfl
@[simp] theorem dbfWrite_pc (v : Word) (s : State) : (dbfWrite v s).pc = s.pc := rfl
@[simp] theorem dbfWrite_skipNext (v : Word) (s : State) : (dbfWrite v s).skipNext = s.skipNext := rfl
@[simp] theorem dbfWrite_sp (v : Word) (s : State) : (dbfWrite v s).sp = s.sp := rfl
@[simp] theorem dbfWrite_asr (v : Word) (s : State) : (dbfWrite v s).asr = s.asr := rfl
@[simp] theorem dbfWrite_intsk (v : Word) (s : State) : (dbfWrite v s).intsk = s.intsk := rfl
@[simp] theorem dbfWrite_ar (v : Word) (s : State) : (dbfWrite v s).ar = s.ar := rfl
@[simp] theorem dbfWrite_wr (v : Word) (s : State) : (dbfWrite v s).wr = s.wr := rfl
@[simp] theorem dbfWrite_mpe (v : Word) (s : State) : (dbfWrite v s).mpe = s.mpe := rfl
@[simp] theorem dbfWrite_ix (v : Word) (s : State) : (dbfWrite v s).ix = s.ix := rfl
@[simp] theorem dbfWrite_rprow (v : Word) (s : State) : (dbfWrite v s).rprow = s.rprow := rfl
@[simp] theorem dbfWrite_psw (v : Word) (s : State) : (dbfWrite v s).psw = s.psw := rfl
@[simp] theorem dbfWrite_rom (v : Word) (s : State) : (dbfWrite v s).rom = s.rom := rfl
@[simp] theorem dbfWrite_ports (v : Word) (s : State) : (dbfWrite v s).ports = s.ports := rfl
@[simp] theorem dbfWrite_pdresen (v : Word) (s : State) : (dbfWrite v s).pdresen = s.pdresen := rfl
@[simp] theorem dbfWrite_iegmd (v : Word) (s : State) : (dbfWrite v s).iegmd = s.iegmd := rfl
@[simp] theorem dbfWrite_timer (v : Word) (s : State) : (dbfWrite v s).timer = s.timer := rfl
@[simp] theorem dbfWrite_serial (v : Word) (s : State) : (dbfWrite v s).serial = s.serial := rfl
@[simp] theorem dbfWrite_comparator (v : Word) (s : State) : (dbfWrite v s).comparator = s.comparator := rfl
@[simp] theorem dbfWrite_req (v : Word) (s : State) : (dbfWrite v s).req = s.req := rfl
@[simp] theorem dbfWrite_en (v : Word) (s : State) : (dbfWrite v s).en = s.en := rfl
@[simp] theorem dbfWrite_irqSeen (v : Word) (s : State) : (dbfWrite v s).irqSeen = s.irqSeen := rfl
@[simp] theorem dbfWrite_irqLast (v : Word) (s : State) : (dbfWrite v s).irqLast = s.irqLast := rfl
@[simp] theorem dbfWrite_inte (v : Word) (s : State) : (dbfWrite v s).inte = s.inte := rfl
@[simp] theorem dbfWrite_eiDelay (v : Word) (s : State) : (dbfWrite v s).eiDelay = s.eiDelay := rfl
@[simp] theorem dbfWrite_mode (v : Word) (s : State) : (dbfWrite v s).mode = s.mode := rfl
@[simp] theorem dbfWrite_intPrev (v : Word) (s : State) : (dbfWrite v s).intPrev = s.intPrev := rfl
@[simp] theorem dbfWrite_pins (v : Word) (s : State) : (dbfWrite v s).pins = s.pins := rfl
@[simp] theorem dbfWrite_inputs (v : Word) (s : State) : (dbfWrite v s).inputs = s.inputs := rfl
@[simp] theorem dbfWrite_slot (v : Word) (s : State) : (dbfWrite v s).slot = s.slot := rfl

@[simp] theorem timerReset_chip (s : State) : (timerReset s).chip = s.chip := rfl
@[simp] theorem timerReset_pc (s : State) : (timerReset s).pc = s.pc := rfl
@[simp] theorem timerReset_skipNext (s : State) : (timerReset s).skipNext = s.skipNext := rfl
@[simp] theorem timerReset_sp (s : State) : (timerReset s).sp = s.sp := rfl
@[simp] theorem timerReset_asr (s : State) : (timerReset s).asr = s.asr := rfl
@[simp] theorem timerReset_intsk (s : State) : (timerReset s).intsk = s.intsk := rfl
@[simp] theorem timerReset_ar (s : State) : (timerReset s).ar = s.ar := rfl
@[simp] theorem timerReset_wr (s : State) : (timerReset s).wr = s.wr := rfl
@[simp] theorem timerReset_mpe (s : State) : (timerReset s).mpe = s.mpe := rfl
@[simp] theorem timerReset_ix (s : State) : (timerReset s).ix = s.ix := rfl
@[simp] theorem timerReset_rprow (s : State) : (timerReset s).rprow = s.rprow := rfl
@[simp] theorem timerReset_psw (s : State) : (timerReset s).psw = s.psw := rfl
@[simp] theorem timerReset_ram (s : State) : (timerReset s).ram = s.ram := rfl
@[simp] theorem timerReset_rom (s : State) : (timerReset s).rom = s.rom := rfl
@[simp] theorem timerReset_ports (s : State) : (timerReset s).ports = s.ports := rfl
@[simp] theorem timerReset_pdresen (s : State) : (timerReset s).pdresen = s.pdresen := rfl
@[simp] theorem timerReset_iegmd (s : State) : (timerReset s).iegmd = s.iegmd := rfl
@[simp] theorem timerReset_timer (s : State) : (timerReset s).timer = { s.timer with tmc := 0, tmout := true } := rfl
@[simp] theorem timerReset_serial (s : State) : (timerReset s).serial = s.serial := rfl
@[simp] theorem timerReset_comparator (s : State) : (timerReset s).comparator = s.comparator := rfl
@[simp] theorem timerReset_req (s : State) : (timerReset s).req = { s.req with tm := false } := rfl
@[simp] theorem timerReset_en (s : State) : (timerReset s).en = s.en := rfl
@[simp] theorem timerReset_irqSeen (s : State) : (timerReset s).irqSeen = s.irqSeen := rfl
@[simp] theorem timerReset_irqLast (s : State) : (timerReset s).irqLast = s.irqLast := rfl
@[simp] theorem timerReset_inte (s : State) : (timerReset s).inte = s.inte := rfl
@[simp] theorem timerReset_eiDelay (s : State) : (timerReset s).eiDelay = s.eiDelay := rfl
@[simp] theorem timerReset_mode (s : State) : (timerReset s).mode = s.mode := rfl
@[simp] theorem timerReset_intPrev (s : State) : (timerReset s).intPrev = s.intPrev := rfl
@[simp] theorem timerReset_pins (s : State) : (timerReset s).pins = s.pins := rfl
@[simp] theorem timerReset_inputs (s : State) : (timerReset s).inputs = s.inputs := rfl
@[simp] theorem timerReset_slot (s : State) : (timerReset s).slot = s.slot := rfl

@[simp] theorem retainShiftRegister_chip (s : State) : (retainShiftRegister s).chip = s.chip := rfl
@[simp] theorem retainShiftRegister_pc (s : State) : (retainShiftRegister s).pc = s.pc := rfl
@[simp] theorem retainShiftRegister_skipNext (s : State) : (retainShiftRegister s).skipNext = s.skipNext := rfl
@[simp] theorem retainShiftRegister_sp (s : State) : (retainShiftRegister s).sp = s.sp := rfl
@[simp] theorem retainShiftRegister_asr (s : State) : (retainShiftRegister s).asr = s.asr := rfl
@[simp] theorem retainShiftRegister_intsk (s : State) : (retainShiftRegister s).intsk = s.intsk := rfl
@[simp] theorem retainShiftRegister_ar (s : State) : (retainShiftRegister s).ar = s.ar := rfl
@[simp] theorem retainShiftRegister_wr (s : State) : (retainShiftRegister s).wr = s.wr := rfl
@[simp] theorem retainShiftRegister_mpe (s : State) : (retainShiftRegister s).mpe = s.mpe := rfl
@[simp] theorem retainShiftRegister_ix (s : State) : (retainShiftRegister s).ix = s.ix := rfl
@[simp] theorem retainShiftRegister_rprow (s : State) : (retainShiftRegister s).rprow = s.rprow := rfl
@[simp] theorem retainShiftRegister_psw (s : State) : (retainShiftRegister s).psw = s.psw := rfl
@[simp] theorem retainShiftRegister_ram (s : State) : (retainShiftRegister s).ram = s.ram := rfl
@[simp] theorem retainShiftRegister_rom (s : State) : (retainShiftRegister s).rom = s.rom := rfl
@[simp] theorem retainShiftRegister_ports (s : State) : (retainShiftRegister s).ports = s.ports := rfl
@[simp] theorem retainShiftRegister_pdresen (s : State) : (retainShiftRegister s).pdresen = s.pdresen := rfl
@[simp] theorem retainShiftRegister_iegmd (s : State) : (retainShiftRegister s).iegmd = s.iegmd := rfl
@[simp] theorem retainShiftRegister_timer (s : State) : (retainShiftRegister s).timer = s.timer := rfl
@[simp] theorem retainShiftRegister_serial (s : State) :
    (retainShiftRegister s).serial = { s.serial with retained := s.serial.siosfr } := rfl
@[simp] theorem retainShiftRegister_comparator (s : State) : (retainShiftRegister s).comparator = s.comparator := rfl
@[simp] theorem retainShiftRegister_req (s : State) : (retainShiftRegister s).req = s.req := rfl
@[simp] theorem retainShiftRegister_en (s : State) : (retainShiftRegister s).en = s.en := rfl
@[simp] theorem retainShiftRegister_irqSeen (s : State) : (retainShiftRegister s).irqSeen = s.irqSeen := rfl
@[simp] theorem retainShiftRegister_irqLast (s : State) : (retainShiftRegister s).irqLast = s.irqLast := rfl
@[simp] theorem retainShiftRegister_inte (s : State) : (retainShiftRegister s).inte = s.inte := rfl
@[simp] theorem retainShiftRegister_eiDelay (s : State) : (retainShiftRegister s).eiDelay = s.eiDelay := rfl
@[simp] theorem retainShiftRegister_mode (s : State) : (retainShiftRegister s).mode = s.mode := rfl
@[simp] theorem retainShiftRegister_intPrev (s : State) : (retainShiftRegister s).intPrev = s.intPrev := rfl
@[simp] theorem retainShiftRegister_pins (s : State) : (retainShiftRegister s).pins = s.pins := rfl
@[simp] theorem retainShiftRegister_inputs (s : State) : (retainShiftRegister s).inputs = s.inputs := rfl
@[simp] theorem retainShiftRegister_slot (s : State) : (retainShiftRegister s).slot = s.slot := rfl

@[simp] theorem enterHalt_chip (h : Nibble) (s : State) : (enterHalt h s).chip = s.chip := rfl
@[simp] theorem enterHalt_pc (h : Nibble) (s : State) : (enterHalt h s).pc = s.pc := rfl
@[simp] theorem enterHalt_skipNext (h : Nibble) (s : State) : (enterHalt h s).skipNext = s.skipNext := rfl
@[simp] theorem enterHalt_sp (h : Nibble) (s : State) : (enterHalt h s).sp = s.sp := rfl
@[simp] theorem enterHalt_asr (h : Nibble) (s : State) : (enterHalt h s).asr = s.asr := rfl
@[simp] theorem enterHalt_intsk (h : Nibble) (s : State) : (enterHalt h s).intsk = s.intsk := rfl
@[simp] theorem enterHalt_ar (h : Nibble) (s : State) : (enterHalt h s).ar = s.ar := rfl
@[simp] theorem enterHalt_wr (h : Nibble) (s : State) : (enterHalt h s).wr = s.wr := rfl
@[simp] theorem enterHalt_mpe (h : Nibble) (s : State) : (enterHalt h s).mpe = s.mpe := rfl
@[simp] theorem enterHalt_ix (h : Nibble) (s : State) : (enterHalt h s).ix = s.ix := rfl
@[simp] theorem enterHalt_rprow (h : Nibble) (s : State) : (enterHalt h s).rprow = s.rprow := rfl
@[simp] theorem enterHalt_psw (h : Nibble) (s : State) : (enterHalt h s).psw = s.psw := rfl
@[simp] theorem enterHalt_ram (h : Nibble) (s : State) : (enterHalt h s).ram = s.ram := rfl
@[simp] theorem enterHalt_rom (h : Nibble) (s : State) : (enterHalt h s).rom = s.rom := rfl
@[simp] theorem enterHalt_ports (h : Nibble) (s : State) : (enterHalt h s).ports = s.ports := rfl
@[simp] theorem enterHalt_pdresen (h : Nibble) (s : State) : (enterHalt h s).pdresen = s.pdresen := rfl
@[simp] theorem enterHalt_iegmd (h : Nibble) (s : State) : (enterHalt h s).iegmd = s.iegmd := rfl
@[simp] theorem enterHalt_timer (h : Nibble) (s : State) : (enterHalt h s).timer = s.timer := rfl
@[simp] theorem enterHalt_serial (h : Nibble) (s : State) :
    (enterHalt h s).serial = { s.serial with retained := s.serial.siosfr } := rfl
@[simp] theorem enterHalt_req (h : Nibble) (s : State) : (enterHalt h s).req = s.req := rfl
@[simp] theorem enterHalt_en (h : Nibble) (s : State) : (enterHalt h s).en = s.en := rfl
@[simp] theorem enterHalt_irqSeen (h : Nibble) (s : State) : (enterHalt h s).irqSeen = s.irqSeen := rfl
@[simp] theorem enterHalt_irqLast (h : Nibble) (s : State) : (enterHalt h s).irqLast = s.irqLast := rfl
@[simp] theorem enterHalt_inte (h : Nibble) (s : State) : (enterHalt h s).inte = s.inte := rfl
@[simp] theorem enterHalt_eiDelay (h : Nibble) (s : State) : (enterHalt h s).eiDelay = s.eiDelay := rfl
@[simp] theorem enterHalt_mode (h : Nibble) (s : State) : (enterHalt h s).mode = .halt h := rfl
@[simp] theorem enterHalt_intPrev (h : Nibble) (s : State) : (enterHalt h s).intPrev = s.intPrev := rfl
@[simp] theorem enterHalt_pins (h : Nibble) (s : State) : (enterHalt h s).pins = s.pins := rfl
@[simp] theorem enterHalt_inputs (h : Nibble) (s : State) : (enterHalt h s).inputs = s.inputs := rfl
@[simp] theorem enterHalt_slot (h : Nibble) (s : State) : (enterHalt h s).slot = s.slot := rfl

@[simp] theorem enterStop_chip (c : Nibble) (s : State) : (enterStop c s).chip = s.chip := rfl
@[simp] theorem enterStop_pc (c : Nibble) (s : State) : (enterStop c s).pc = s.pc := rfl
@[simp] theorem enterStop_skipNext (c : Nibble) (s : State) : (enterStop c s).skipNext = s.skipNext := rfl
@[simp] theorem enterStop_sp (c : Nibble) (s : State) : (enterStop c s).sp = s.sp := rfl
@[simp] theorem enterStop_asr (c : Nibble) (s : State) : (enterStop c s).asr = s.asr := rfl
@[simp] theorem enterStop_intsk (c : Nibble) (s : State) : (enterStop c s).intsk = s.intsk := rfl
@[simp] theorem enterStop_ar (c : Nibble) (s : State) : (enterStop c s).ar = s.ar := rfl
@[simp] theorem enterStop_wr (c : Nibble) (s : State) : (enterStop c s).wr = s.wr := rfl
@[simp] theorem enterStop_mpe (c : Nibble) (s : State) : (enterStop c s).mpe = s.mpe := rfl
@[simp] theorem enterStop_ix (c : Nibble) (s : State) : (enterStop c s).ix = s.ix := rfl
@[simp] theorem enterStop_rprow (c : Nibble) (s : State) : (enterStop c s).rprow = s.rprow := rfl
@[simp] theorem enterStop_psw (c : Nibble) (s : State) : (enterStop c s).psw = s.psw := rfl
@[simp] theorem enterStop_ram (c : Nibble) (s : State) : (enterStop c s).ram = s.ram := rfl
@[simp] theorem enterStop_rom (c : Nibble) (s : State) : (enterStop c s).rom = s.rom := rfl
@[simp] theorem enterStop_ports (c : Nibble) (s : State) : (enterStop c s).ports = s.ports := rfl
@[simp] theorem enterStop_pdresen (c : Nibble) (s : State) : (enterStop c s).pdresen = s.pdresen := rfl
@[simp] theorem enterStop_iegmd (c : Nibble) (s : State) : (enterStop c s).iegmd = s.iegmd := rfl
@[simp] theorem enterStop_timer (c : Nibble) (s : State) : (enterStop c s).timer = { s.timer with tmc := 0 } := rfl
@[simp] theorem enterStop_serial (c : Nibble) (s : State) :
    (enterStop c s).serial = { s.serial with retained := s.serial.siosfr } := rfl
@[simp] theorem enterStop_req (c : Nibble) (s : State) : (enterStop c s).req = { s.req with tm := false } := rfl
@[simp] theorem enterStop_en (c : Nibble) (s : State) : (enterStop c s).en = s.en := rfl
@[simp] theorem enterStop_irqSeen (c : Nibble) (s : State) : (enterStop c s).irqSeen = s.irqSeen := rfl
@[simp] theorem enterStop_irqLast (c : Nibble) (s : State) : (enterStop c s).irqLast = s.irqLast := rfl
@[simp] theorem enterStop_inte (c : Nibble) (s : State) : (enterStop c s).inte = s.inte := rfl
@[simp] theorem enterStop_eiDelay (c : Nibble) (s : State) : (enterStop c s).eiDelay = s.eiDelay := rfl
@[simp] theorem enterStop_mode (c : Nibble) (s : State) : (enterStop c s).mode = .stop c := rfl
@[simp] theorem enterStop_intPrev (c : Nibble) (s : State) : (enterStop c s).intPrev = s.intPrev := rfl
@[simp] theorem enterStop_pins (c : Nibble) (s : State) : (enterStop c s).pins = s.pins := rfl
@[simp] theorem enterStop_inputs (c : Nibble) (s : State) : (enterStop c s).inputs = s.inputs := rfl
@[simp] theorem enterStop_slot (c : Nibble) (s : State) : (enterStop c s).slot = s.slot := rfl

@[simp] theorem advancePc_chip (s : State) : (advancePc s).chip = s.chip := rfl
@[simp] theorem advancePc_pc (s : State) : (advancePc s).pc = s.pc + 1 := rfl
@[simp] theorem advancePc_skipNext (s : State) : (advancePc s).skipNext = s.skipNext := rfl
@[simp] theorem advancePc_sp (s : State) : (advancePc s).sp = s.sp := rfl
@[simp] theorem advancePc_asr (s : State) : (advancePc s).asr = s.asr := rfl
@[simp] theorem advancePc_intsk (s : State) : (advancePc s).intsk = s.intsk := rfl
@[simp] theorem advancePc_ar (s : State) : (advancePc s).ar = s.ar := rfl
@[simp] theorem advancePc_wr (s : State) : (advancePc s).wr = s.wr := rfl
@[simp] theorem advancePc_mpe (s : State) : (advancePc s).mpe = s.mpe := rfl
@[simp] theorem advancePc_ix (s : State) : (advancePc s).ix = s.ix := rfl
@[simp] theorem advancePc_rprow (s : State) : (advancePc s).rprow = s.rprow := rfl
@[simp] theorem advancePc_psw (s : State) : (advancePc s).psw = s.psw := rfl
@[simp] theorem advancePc_ram (s : State) : (advancePc s).ram = s.ram := rfl
@[simp] theorem advancePc_rom (s : State) : (advancePc s).rom = s.rom := rfl
@[simp] theorem advancePc_ports (s : State) : (advancePc s).ports = s.ports := rfl
@[simp] theorem advancePc_pdresen (s : State) : (advancePc s).pdresen = s.pdresen := rfl
@[simp] theorem advancePc_iegmd (s : State) : (advancePc s).iegmd = s.iegmd := rfl
@[simp] theorem advancePc_timer (s : State) : (advancePc s).timer = s.timer := rfl
@[simp] theorem advancePc_serial (s : State) : (advancePc s).serial = s.serial := rfl
@[simp] theorem advancePc_comparator (s : State) : (advancePc s).comparator = s.comparator := rfl
@[simp] theorem advancePc_req (s : State) : (advancePc s).req = s.req := rfl
@[simp] theorem advancePc_en (s : State) : (advancePc s).en = s.en := rfl
@[simp] theorem advancePc_irqSeen (s : State) : (advancePc s).irqSeen = s.irqSeen := rfl
@[simp] theorem advancePc_irqLast (s : State) : (advancePc s).irqLast = s.irqLast := rfl
@[simp] theorem advancePc_inte (s : State) : (advancePc s).inte = s.inte := rfl
@[simp] theorem advancePc_eiDelay (s : State) : (advancePc s).eiDelay = s.eiDelay := rfl
@[simp] theorem advancePc_mode (s : State) : (advancePc s).mode = s.mode := rfl
@[simp] theorem advancePc_intPrev (s : State) : (advancePc s).intPrev = s.intPrev := rfl
@[simp] theorem advancePc_pins (s : State) : (advancePc s).pins = s.pins := rfl
@[simp] theorem advancePc_inputs (s : State) : (advancePc s).inputs = s.inputs := rfl
@[simp] theorem advancePc_slot (s : State) : (advancePc s).slot = s.slot := rfl

@[simp] theorem openSlot_chip (s : State) : (openSlot s).chip = s.chip := rfl
@[simp] theorem openSlot_pc (s : State) : (openSlot s).pc = s.pc := rfl
@[simp] theorem openSlot_skipNext (s : State) : (openSlot s).skipNext = s.skipNext := rfl
@[simp] theorem openSlot_sp (s : State) : (openSlot s).sp = s.sp := rfl
@[simp] theorem openSlot_asr (s : State) : (openSlot s).asr = s.asr := rfl
@[simp] theorem openSlot_intsk (s : State) : (openSlot s).intsk = s.intsk := rfl
@[simp] theorem openSlot_ar (s : State) : (openSlot s).ar = s.ar := rfl
@[simp] theorem openSlot_wr (s : State) : (openSlot s).wr = s.wr := rfl
@[simp] theorem openSlot_mpe (s : State) : (openSlot s).mpe = s.mpe := rfl
@[simp] theorem openSlot_ix (s : State) : (openSlot s).ix = s.ix := rfl
@[simp] theorem openSlot_rprow (s : State) : (openSlot s).rprow = s.rprow := rfl
@[simp] theorem openSlot_psw (s : State) : (openSlot s).psw = s.psw := rfl
@[simp] theorem openSlot_ram (s : State) : (openSlot s).ram = s.ram := rfl
@[simp] theorem openSlot_rom (s : State) : (openSlot s).rom = s.rom := rfl
@[simp] theorem openSlot_ports (s : State) : (openSlot s).ports = s.ports := rfl
@[simp] theorem openSlot_pdresen (s : State) : (openSlot s).pdresen = s.pdresen := rfl
@[simp] theorem openSlot_iegmd (s : State) : (openSlot s).iegmd = s.iegmd := rfl
@[simp] theorem openSlot_timer (s : State) : (openSlot s).timer = s.timer := rfl
@[simp] theorem openSlot_serial (s : State) : (openSlot s).serial = s.serial := rfl
@[simp] theorem openSlot_comparator (s : State) : (openSlot s).comparator = s.comparator := rfl
@[simp] theorem openSlot_req (s : State) : (openSlot s).req = s.req := rfl
@[simp] theorem openSlot_en (s : State) : (openSlot s).en = s.en := rfl
@[simp] theorem openSlot_irqSeen (s : State) : (openSlot s).irqSeen = s.irqSeen := rfl
@[simp] theorem openSlot_irqLast (s : State) : (openSlot s).irqLast = s.irqLast := rfl
@[simp] theorem openSlot_inte (s : State) : (openSlot s).inte = s.inte := rfl
@[simp] theorem openSlot_eiDelay (s : State) : (openSlot s).eiDelay = s.eiDelay := rfl
@[simp] theorem openSlot_mode (s : State) : (openSlot s).mode = s.mode := rfl
@[simp] theorem openSlot_intPrev (s : State) : (openSlot s).intPrev = s.intPrev := rfl
@[simp] theorem openSlot_pins (s : State) : (openSlot s).pins = s.pins := rfl
@[simp] theorem openSlot_inputs (s : State) : (openSlot s).inputs = s.inputs.tail := rfl
@[simp] theorem openSlot_slot (s : State) : (openSlot s).slot = s.slot + 1 := rfl

@[simp] theorem latchRequests_chip (s : State) : (latchRequests s).chip = s.chip := rfl
@[simp] theorem latchRequests_pc (s : State) : (latchRequests s).pc = s.pc := rfl
@[simp] theorem latchRequests_skipNext (s : State) : (latchRequests s).skipNext = s.skipNext := rfl
@[simp] theorem latchRequests_sp (s : State) : (latchRequests s).sp = s.sp := rfl
@[simp] theorem latchRequests_asr (s : State) : (latchRequests s).asr = s.asr := rfl
@[simp] theorem latchRequests_intsk (s : State) : (latchRequests s).intsk = s.intsk := rfl
@[simp] theorem latchRequests_ar (s : State) : (latchRequests s).ar = s.ar := rfl
@[simp] theorem latchRequests_wr (s : State) : (latchRequests s).wr = s.wr := rfl
@[simp] theorem latchRequests_mpe (s : State) : (latchRequests s).mpe = s.mpe := rfl
@[simp] theorem latchRequests_ix (s : State) : (latchRequests s).ix = s.ix := rfl
@[simp] theorem latchRequests_rprow (s : State) : (latchRequests s).rprow = s.rprow := rfl
@[simp] theorem latchRequests_psw (s : State) : (latchRequests s).psw = s.psw := rfl
@[simp] theorem latchRequests_ram (s : State) : (latchRequests s).ram = s.ram := rfl
@[simp] theorem latchRequests_rom (s : State) : (latchRequests s).rom = s.rom := rfl
@[simp] theorem latchRequests_ports (s : State) : (latchRequests s).ports = s.ports := rfl
@[simp] theorem latchRequests_pdresen (s : State) : (latchRequests s).pdresen = s.pdresen := rfl
@[simp] theorem latchRequests_iegmd (s : State) : (latchRequests s).iegmd = s.iegmd := rfl
@[simp] theorem latchRequests_timer (s : State) : (latchRequests s).timer = s.timer := rfl
@[simp] theorem latchRequests_serial (s : State) : (latchRequests s).serial = s.serial := rfl
@[simp] theorem latchRequests_comparator (s : State) : (latchRequests s).comparator = s.comparator := rfl
@[simp] theorem latchRequests_req (s : State) : (latchRequests s).req = s.req := rfl
@[simp] theorem latchRequests_en (s : State) : (latchRequests s).en = s.en := rfl
@[simp] theorem latchRequests_irqSeen (s : State) : (latchRequests s).irqSeen = s.irqLast := rfl
@[simp] theorem latchRequests_irqLast (s : State) : (latchRequests s).irqLast = s.req := rfl
@[simp] theorem latchRequests_inte (s : State) : (latchRequests s).inte = s.inte := rfl
@[simp] theorem latchRequests_eiDelay (s : State) : (latchRequests s).eiDelay = s.eiDelay := rfl
@[simp] theorem latchRequests_mode (s : State) : (latchRequests s).mode = s.mode := rfl
@[simp] theorem latchRequests_intPrev (s : State) : (latchRequests s).intPrev = s.intPrev := rfl
@[simp] theorem latchRequests_pins (s : State) : (latchRequests s).pins = s.pins := rfl
@[simp] theorem latchRequests_inputs (s : State) : (latchRequests s).inputs = s.inputs := rfl
@[simp] theorem latchRequests_slot (s : State) : (latchRequests s).slot = s.slot := rfl

@[simp] theorem pinResetStandby_chip (s : State) : (pinResetStandby s).chip = s.chip := rfl
@[simp] theorem pinResetStandby_pc (s : State) : (pinResetStandby s).pc = 0 := rfl
@[simp] theorem pinResetStandby_skipNext (s : State) : (pinResetStandby s).skipNext = false := rfl
@[simp] theorem pinResetStandby_sp (s : State) : (pinResetStandby s).sp = 5 := rfl
@[simp] theorem pinResetStandby_ar (s : State) : (pinResetStandby s).ar = 0 := rfl
@[simp] theorem pinResetStandby_wr (s : State) : (pinResetStandby s).wr = s.wr := rfl
@[simp] theorem pinResetStandby_mpe (s : State) : (pinResetStandby s).mpe = false := rfl
@[simp] theorem pinResetStandby_ix (s : State) : (pinResetStandby s).ix = 0 := rfl
@[simp] theorem pinResetStandby_rprow (s : State) : (pinResetStandby s).rprow = 0 := rfl
@[simp] theorem pinResetStandby_psw (s : State) : (pinResetStandby s).psw = .clear := rfl
@[simp] theorem pinResetStandby_ram (s : State) : (pinResetStandby s).ram = drawRam s.slot dbfAddrs s.ram := rfl
@[simp] theorem pinResetStandby_rom (s : State) : (pinResetStandby s).rom = s.rom := rfl
@[simp] theorem pinResetStandby_pdresen (s : State) : (pinResetStandby s).pdresen = false := rfl
@[simp] theorem pinResetStandby_iegmd (s : State) : (pinResetStandby s).iegmd = 0 := rfl
@[simp] theorem pinResetStandby_req (s : State) : (pinResetStandby s).req = ⟨false, true, false⟩ := rfl
@[simp] theorem pinResetStandby_en (s : State) : (pinResetStandby s).en = .none := rfl
@[simp] theorem pinResetStandby_irqSeen (s : State) : (pinResetStandby s).irqSeen = ⟨false, true, false⟩ := rfl
@[simp] theorem pinResetStandby_irqLast (s : State) : (pinResetStandby s).irqLast = ⟨false, true, false⟩ := rfl
@[simp] theorem pinResetStandby_inte (s : State) : (pinResetStandby s).inte = false := rfl
@[simp] theorem pinResetStandby_eiDelay (s : State) : (pinResetStandby s).eiDelay = 0 := rfl
@[simp] theorem pinResetStandby_mode (s : State) : (pinResetStandby s).mode = s.mode := rfl
@[simp] theorem pinResetStandby_intPrev (s : State) : (pinResetStandby s).intPrev = s.pins.int := rfl
@[simp] theorem pinResetStandby_pins (s : State) : (pinResetStandby s).pins = s.pins := rfl
@[simp] theorem pinResetStandby_inputs (s : State) : (pinResetStandby s).inputs = s.inputs := rfl
@[simp] theorem pinResetStandby_slot (s : State) : (pinResetStandby s).slot = s.slot := rfl

@[simp] theorem pinReset_chip (s : State) : (pinReset s).chip = s.chip := rfl
@[simp] theorem pinReset_pc (s : State) : (pinReset s).pc = 0 := rfl
@[simp] theorem pinReset_skipNext (s : State) : (pinReset s).skipNext = false := rfl
@[simp] theorem pinReset_sp (s : State) : (pinReset s).sp = 5 := rfl
@[simp] theorem pinReset_ar (s : State) : (pinReset s).ar = 0 := rfl
@[simp] theorem pinReset_wr (s : State) : (pinReset s).wr = Config.free s.slot .resetWr 4 := rfl
@[simp] theorem pinReset_mpe (s : State) : (pinReset s).mpe = false := rfl
@[simp] theorem pinReset_ix (s : State) : (pinReset s).ix = 0 := rfl
@[simp] theorem pinReset_rprow (s : State) : (pinReset s).rprow = 0 := rfl
@[simp] theorem pinReset_psw (s : State) : (pinReset s).psw = .clear := rfl
@[simp] theorem pinReset_ram (s : State) : (pinReset s).ram = undefinedRam s := rfl
@[simp] theorem pinReset_rom (s : State) : (pinReset s).rom = s.rom := rfl
@[simp] theorem pinReset_pdresen (s : State) : (pinReset s).pdresen = false := rfl
@[simp] theorem pinReset_iegmd (s : State) : (pinReset s).iegmd = 0 := rfl
@[simp] theorem pinReset_req (s : State) : (pinReset s).req = ⟨false, true, false⟩ := rfl
@[simp] theorem pinReset_en (s : State) : (pinReset s).en = .none := rfl
@[simp] theorem pinReset_irqSeen (s : State) : (pinReset s).irqSeen = ⟨false, true, false⟩ := rfl
@[simp] theorem pinReset_irqLast (s : State) : (pinReset s).irqLast = ⟨false, true, false⟩ := rfl
@[simp] theorem pinReset_inte (s : State) : (pinReset s).inte = false := rfl
@[simp] theorem pinReset_eiDelay (s : State) : (pinReset s).eiDelay = 0 := rfl
@[simp] theorem pinReset_mode (s : State) : (pinReset s).mode = s.mode := rfl
@[simp] theorem pinReset_intPrev (s : State) : (pinReset s).intPrev = s.pins.int := rfl
@[simp] theorem pinReset_pins (s : State) : (pinReset s).pins = s.pins := rfl
@[simp] theorem pinReset_inputs (s : State) : (pinReset s).inputs = s.inputs := rfl
@[simp] theorem pinReset_slot (s : State) : (pinReset s).slot = s.slot := rfl

@[simp] theorem stackFaultReset_chip (s : State) : (stackFaultReset s).chip = s.chip := rfl
@[simp] theorem stackFaultReset_pc (s : State) : (stackFaultReset s).pc = 0 := rfl
@[simp] theorem stackFaultReset_skipNext (s : State) : (stackFaultReset s).skipNext = false := rfl
@[simp] theorem stackFaultReset_sp (s : State) : (stackFaultReset s).sp = 5 := rfl
@[simp] theorem stackFaultReset_ar (s : State) : (stackFaultReset s).ar = 0 := rfl
@[simp] theorem stackFaultReset_wr (s : State) : (stackFaultReset s).wr = Config.free s.slot .resetWr 4 := rfl
@[simp] theorem stackFaultReset_mpe (s : State) : (stackFaultReset s).mpe = false := rfl
@[simp] theorem stackFaultReset_ix (s : State) : (stackFaultReset s).ix = 0 := rfl
@[simp] theorem stackFaultReset_rprow (s : State) : (stackFaultReset s).rprow = 0 := rfl
@[simp] theorem stackFaultReset_psw (s : State) : (stackFaultReset s).psw = .clear := rfl
@[simp] theorem stackFaultReset_ram (s : State) : (stackFaultReset s).ram = undefinedRam s := rfl
@[simp] theorem stackFaultReset_rom (s : State) : (stackFaultReset s).rom = s.rom := rfl
@[simp] theorem stackFaultReset_pdresen (s : State) : (stackFaultReset s).pdresen = false := rfl
@[simp] theorem stackFaultReset_iegmd (s : State) : (stackFaultReset s).iegmd = 0 := rfl
@[simp] theorem stackFaultReset_en (s : State) : (stackFaultReset s).en = .none := rfl
@[simp] theorem stackFaultReset_inte (s : State) : (stackFaultReset s).inte = false := rfl
@[simp] theorem stackFaultReset_eiDelay (s : State) : (stackFaultReset s).eiDelay = 0 := rfl
@[simp] theorem stackFaultReset_mode (s : State) : (stackFaultReset s).mode = .run := rfl
@[simp] theorem stackFaultReset_intPrev (s : State) : (stackFaultReset s).intPrev = s.pins.int := rfl
@[simp] theorem stackFaultReset_pins (s : State) : (stackFaultReset s).pins = s.pins := rfl
@[simp] theorem stackFaultReset_inputs (s : State) : (stackFaultReset s).inputs = s.inputs := rfl
@[simp] theorem stackFaultReset_slot (s : State) : (stackFaultReset s).slot = s.slot := rfl

@[simp] theorem portWrite_chip (s : State) (p : Port) (v : Nibble) : (portWrite s p v).chip = s.chip := by cases p <;> rfl
@[simp] theorem portWrite_pc (s : State) (p : Port) (v : Nibble) : (portWrite s p v).pc = s.pc := by cases p <;> rfl
@[simp] theorem portWrite_skipNext (s : State) (p : Port) (v : Nibble) : (portWrite s p v).skipNext = s.skipNext := by cases p <;> rfl
@[simp] theorem portWrite_sp (s : State) (p : Port) (v : Nibble) : (portWrite s p v).sp = s.sp := by cases p <;> rfl
@[simp] theorem portWrite_asr (s : State) (p : Port) (v : Nibble) : (portWrite s p v).asr = s.asr := by cases p <;> rfl
@[simp] theorem portWrite_intsk (s : State) (p : Port) (v : Nibble) : (portWrite s p v).intsk = s.intsk := by cases p <;> rfl
@[simp] theorem portWrite_ar (s : State) (p : Port) (v : Nibble) : (portWrite s p v).ar = s.ar := by cases p <;> rfl
@[simp] theorem portWrite_wr (s : State) (p : Port) (v : Nibble) : (portWrite s p v).wr = s.wr := by cases p <;> rfl
@[simp] theorem portWrite_mpe (s : State) (p : Port) (v : Nibble) : (portWrite s p v).mpe = s.mpe := by cases p <;> rfl
@[simp] theorem portWrite_ix (s : State) (p : Port) (v : Nibble) : (portWrite s p v).ix = s.ix := by cases p <;> rfl
@[simp] theorem portWrite_rprow (s : State) (p : Port) (v : Nibble) : (portWrite s p v).rprow = s.rprow := by cases p <;> rfl
@[simp] theorem portWrite_psw (s : State) (p : Port) (v : Nibble) : (portWrite s p v).psw = s.psw := by cases p <;> rfl
@[simp] theorem portWrite_ram (s : State) (p : Port) (v : Nibble) : (portWrite s p v).ram = s.ram := by cases p <;> rfl
@[simp] theorem portWrite_rom (s : State) (p : Port) (v : Nibble) : (portWrite s p v).rom = s.rom := by cases p <;> rfl
@[simp] theorem portWrite_pdresen (s : State) (p : Port) (v : Nibble) : (portWrite s p v).pdresen = s.pdresen := by cases p <;> rfl
@[simp] theorem portWrite_iegmd (s : State) (p : Port) (v : Nibble) : (portWrite s p v).iegmd = s.iegmd := by cases p <;> rfl
@[simp] theorem portWrite_timer (s : State) (p : Port) (v : Nibble) : (portWrite s p v).timer = s.timer := by cases p <;> rfl
@[simp] theorem portWrite_serial (s : State) (p : Port) (v : Nibble) : (portWrite s p v).serial = s.serial := by cases p <;> rfl
@[simp] theorem portWrite_comparator (s : State) (p : Port) (v : Nibble) : (portWrite s p v).comparator = s.comparator := by cases p <;> rfl
@[simp] theorem portWrite_req (s : State) (p : Port) (v : Nibble) : (portWrite s p v).req = s.req := by cases p <;> rfl
@[simp] theorem portWrite_en (s : State) (p : Port) (v : Nibble) : (portWrite s p v).en = s.en := by cases p <;> rfl
@[simp] theorem portWrite_irqSeen (s : State) (p : Port) (v : Nibble) : (portWrite s p v).irqSeen = s.irqSeen := by cases p <;> rfl
@[simp] theorem portWrite_irqLast (s : State) (p : Port) (v : Nibble) : (portWrite s p v).irqLast = s.irqLast := by cases p <;> rfl
@[simp] theorem portWrite_inte (s : State) (p : Port) (v : Nibble) : (portWrite s p v).inte = s.inte := by cases p <;> rfl
@[simp] theorem portWrite_eiDelay (s : State) (p : Port) (v : Nibble) : (portWrite s p v).eiDelay = s.eiDelay := by cases p <;> rfl
@[simp] theorem portWrite_mode (s : State) (p : Port) (v : Nibble) : (portWrite s p v).mode = s.mode := by cases p <;> rfl
@[simp] theorem portWrite_intPrev (s : State) (p : Port) (v : Nibble) : (portWrite s p v).intPrev = s.intPrev := by cases p <;> rfl
@[simp] theorem portWrite_pins (s : State) (p : Port) (v : Nibble) : (portWrite s p v).pins = s.pins := by cases p <;> rfl
@[simp] theorem portWrite_inputs (s : State) (p : Port) (v : Nibble) : (portWrite s p v).inputs = s.inputs := by cases p <;> rfl
@[simp] theorem portWrite_slot (s : State) (p : Port) (v : Nibble) : (portWrite s p v).slot = s.slot := by cases p <;> rfl

@[simp] theorem sysWrite_chip (s : State) (a : DataAddr) (v : Nibble) : (sysWrite s a v).chip = s.chip := by
  unfold sysWrite; split <;> rfl
@[simp] theorem sysWrite_pc (s : State) (a : DataAddr) (v : Nibble) : (sysWrite s a v).pc = s.pc := by
  unfold sysWrite; split <;> rfl
@[simp] theorem sysWrite_skipNext (s : State) (a : DataAddr) (v : Nibble) : (sysWrite s a v).skipNext = s.skipNext := by
  unfold sysWrite; split <;> rfl
@[simp] theorem sysWrite_sp (s : State) (a : DataAddr) (v : Nibble) : (sysWrite s a v).sp = s.sp := by
  unfold sysWrite; split <;> rfl
@[simp] theorem sysWrite_asr (s : State) (a : DataAddr) (v : Nibble) : (sysWrite s a v).asr = s.asr := by
  unfold sysWrite; split <;> rfl
@[simp] theorem sysWrite_intsk (s : State) (a : DataAddr) (v : Nibble) : (sysWrite s a v).intsk = s.intsk := by
  unfold sysWrite; split <;> rfl
@[simp] theorem sysWrite_rom (s : State) (a : DataAddr) (v : Nibble) : (sysWrite s a v).rom = s.rom := by
  unfold sysWrite; split <;> rfl
@[simp] theorem sysWrite_pdresen (s : State) (a : DataAddr) (v : Nibble) : (sysWrite s a v).pdresen = s.pdresen := by
  unfold sysWrite; split <;> rfl
@[simp] theorem sysWrite_iegmd (s : State) (a : DataAddr) (v : Nibble) : (sysWrite s a v).iegmd = s.iegmd := by
  unfold sysWrite; split <;> rfl
@[simp] theorem sysWrite_timer (s : State) (a : DataAddr) (v : Nibble) : (sysWrite s a v).timer = s.timer := by
  unfold sysWrite; split <;> rfl
@[simp] theorem sysWrite_serial (s : State) (a : DataAddr) (v : Nibble) : (sysWrite s a v).serial = s.serial := by
  unfold sysWrite; split <;> rfl
@[simp] theorem sysWrite_comparator (s : State) (a : DataAddr) (v : Nibble) : (sysWrite s a v).comparator = s.comparator := by
  unfold sysWrite; split <;> rfl
@[simp] theorem sysWrite_req (s : State) (a : DataAddr) (v : Nibble) : (sysWrite s a v).req = s.req := by
  unfold sysWrite; split <;> rfl
@[simp] theorem sysWrite_en (s : State) (a : DataAddr) (v : Nibble) : (sysWrite s a v).en = s.en := by
  unfold sysWrite; split <;> rfl
@[simp] theorem sysWrite_irqSeen (s : State) (a : DataAddr) (v : Nibble) : (sysWrite s a v).irqSeen = s.irqSeen := by
  unfold sysWrite; split <;> rfl
@[simp] theorem sysWrite_irqLast (s : State) (a : DataAddr) (v : Nibble) : (sysWrite s a v).irqLast = s.irqLast := by
  unfold sysWrite; split <;> rfl
@[simp] theorem sysWrite_inte (s : State) (a : DataAddr) (v : Nibble) : (sysWrite s a v).inte = s.inte := by
  unfold sysWrite; split <;> rfl
@[simp] theorem sysWrite_eiDelay (s : State) (a : DataAddr) (v : Nibble) : (sysWrite s a v).eiDelay = s.eiDelay := by
  unfold sysWrite; split <;> rfl
@[simp] theorem sysWrite_mode (s : State) (a : DataAddr) (v : Nibble) : (sysWrite s a v).mode = s.mode := by
  unfold sysWrite; split <;> rfl
@[simp] theorem sysWrite_intPrev (s : State) (a : DataAddr) (v : Nibble) : (sysWrite s a v).intPrev = s.intPrev := by
  unfold sysWrite; split <;> rfl
@[simp] theorem sysWrite_pins (s : State) (a : DataAddr) (v : Nibble) : (sysWrite s a v).pins = s.pins := by
  unfold sysWrite; split <;> rfl
@[simp] theorem sysWrite_inputs (s : State) (a : DataAddr) (v : Nibble) : (sysWrite s a v).inputs = s.inputs := by
  unfold sysWrite; split <;> rfl
@[simp] theorem sysWrite_slot (s : State) (a : DataAddr) (v : Nibble) : (sysWrite s a v).slot = s.slot := by
  unfold sysWrite; split <;> rfl
@[simp] theorem sysWrite_ram (s : State) (a : DataAddr) (v : Nibble) : (sysWrite s a v).ram = s.ram := by
  unfold sysWrite; split <;> rfl
@[simp] theorem sysWrite_ports (s : State) (a : DataAddr) (v : Nibble) : (sysWrite s a v).ports = s.ports := by
  unfold sysWrite; split <;> rfl

@[simp] theorem memWrite_chip (s : State) (a : DataAddr) (v : Nibble) : (memWrite s a v).chip = s.chip := by
  unfold memWrite; split <;> simp
@[simp] theorem memWrite_pc (s : State) (a : DataAddr) (v : Nibble) : (memWrite s a v).pc = s.pc := by
  unfold memWrite; split <;> simp
@[simp] theorem memWrite_skipNext (s : State) (a : DataAddr) (v : Nibble) : (memWrite s a v).skipNext = s.skipNext := by
  unfold memWrite; split <;> simp
@[simp] theorem memWrite_sp (s : State) (a : DataAddr) (v : Nibble) : (memWrite s a v).sp = s.sp := by
  unfold memWrite; split <;> simp
@[simp] theorem memWrite_asr (s : State) (a : DataAddr) (v : Nibble) : (memWrite s a v).asr = s.asr := by
  unfold memWrite; split <;> simp
@[simp] theorem memWrite_intsk (s : State) (a : DataAddr) (v : Nibble) : (memWrite s a v).intsk = s.intsk := by
  unfold memWrite; split <;> simp
@[simp] theorem memWrite_rom (s : State) (a : DataAddr) (v : Nibble) : (memWrite s a v).rom = s.rom := by
  unfold memWrite; split <;> simp
@[simp] theorem memWrite_pdresen (s : State) (a : DataAddr) (v : Nibble) : (memWrite s a v).pdresen = s.pdresen := by
  unfold memWrite; split <;> simp
@[simp] theorem memWrite_iegmd (s : State) (a : DataAddr) (v : Nibble) : (memWrite s a v).iegmd = s.iegmd := by
  unfold memWrite; split <;> simp
@[simp] theorem memWrite_timer (s : State) (a : DataAddr) (v : Nibble) : (memWrite s a v).timer = s.timer := by
  unfold memWrite; split <;> simp
@[simp] theorem memWrite_serial (s : State) (a : DataAddr) (v : Nibble) : (memWrite s a v).serial = s.serial := by
  unfold memWrite; split <;> simp
@[simp] theorem memWrite_comparator (s : State) (a : DataAddr) (v : Nibble) : (memWrite s a v).comparator = s.comparator := by
  unfold memWrite; split <;> simp
@[simp] theorem memWrite_req (s : State) (a : DataAddr) (v : Nibble) : (memWrite s a v).req = s.req := by
  unfold memWrite; split <;> simp
@[simp] theorem memWrite_en (s : State) (a : DataAddr) (v : Nibble) : (memWrite s a v).en = s.en := by
  unfold memWrite; split <;> simp
@[simp] theorem memWrite_irqSeen (s : State) (a : DataAddr) (v : Nibble) : (memWrite s a v).irqSeen = s.irqSeen := by
  unfold memWrite; split <;> simp
@[simp] theorem memWrite_irqLast (s : State) (a : DataAddr) (v : Nibble) : (memWrite s a v).irqLast = s.irqLast := by
  unfold memWrite; split <;> simp
@[simp] theorem memWrite_inte (s : State) (a : DataAddr) (v : Nibble) : (memWrite s a v).inte = s.inte := by
  unfold memWrite; split <;> simp
@[simp] theorem memWrite_eiDelay (s : State) (a : DataAddr) (v : Nibble) : (memWrite s a v).eiDelay = s.eiDelay := by
  unfold memWrite; split <;> simp
@[simp] theorem memWrite_mode (s : State) (a : DataAddr) (v : Nibble) : (memWrite s a v).mode = s.mode := by
  unfold memWrite; split <;> simp
@[simp] theorem memWrite_intPrev (s : State) (a : DataAddr) (v : Nibble) : (memWrite s a v).intPrev = s.intPrev := by
  unfold memWrite; split <;> simp
@[simp] theorem memWrite_pins (s : State) (a : DataAddr) (v : Nibble) : (memWrite s a v).pins = s.pins := by
  unfold memWrite; split <;> simp
@[simp] theorem memWrite_inputs (s : State) (a : DataAddr) (v : Nibble) : (memWrite s a v).inputs = s.inputs := by
  unfold memWrite; split <;> simp
@[simp] theorem memWrite_slot (s : State) (a : DataAddr) (v : Nibble) : (memWrite s a v).slot = s.slot := by
  unfold memWrite; split <;> simp

end Sys2Proof.Machine
end

