-- ==== Sys2Proof/Laws/Memory.lean ====
section
/-! SUPPORT. Laws about the sparse memories: a read after a write, and that every memory operation keeps the canonical
form. -/
namespace Sys2Proof.Machine

/-- Where an entry was erased, a read gives the default. -/
theorem cellRead_cellErase_same {w : Nat} (dflt : BitVec w) (a : Nat) (mem : List (Nat × BitVec w)) :
    cellRead dflt (cellErase a mem) a = dflt := by
  induction mem with
  | nil => rfl
  | cons c rest ih =>
    obtain ⟨b, u⟩ := c
    by_cases h : b = a <;> simp [cellErase, cellRead, h, ih]

/-- Erasing an entry leaves every other address as it was. -/
theorem cellRead_cellErase_other {w : Nat} (dflt : BitVec w) {a b : Nat} (mem : List (Nat × BitVec w)) (h : b ≠ a) :
    cellRead dflt (cellErase a mem) b = cellRead dflt mem b := by
  induction mem with
  | nil => rfl
  | cons c rest ih =>
    obtain ⟨e, u⟩ := c
    by_cases hea : e = a
    · subst hea; simp [cellErase, cellRead, h.symm, ih]
    · simp only [cellErase, hea, if_false, cellRead, ih]

/-- An inserted value is read back. -/
theorem cellRead_cellInsert_same {w : Nat} (dflt v : BitVec w) (a : Nat) (mem : List (Nat × BitVec w)) :
    cellRead dflt (cellInsert a v mem) a = v := by
  induction mem with
  | nil => simp [cellInsert, cellRead]
  | cons c rest ih =>
    obtain ⟨b, u⟩ := c
    unfold cellInsert
    split
    · simp [cellRead]
    · split
      · simp [cellRead]
      · rename_i _ hab
        rw [cellRead, if_neg fun e => hab e.symm]
        exact ih

/-- Inserting a value leaves every other address as it was. -/
theorem cellRead_cellInsert_other {w : Nat} (dflt v : BitVec w) {a b : Nat} (mem : List (Nat × BitVec w))
    (h : b ≠ a) : cellRead dflt (cellInsert a v mem) b = cellRead dflt mem b := by
  induction mem with
  | nil => simp [cellInsert, cellRead, h.symm]
  | cons c rest ih =>
    obtain ⟨e, u⟩ := c
    unfold cellInsert
    split
    · simp [cellRead, h.symm]
    · split
      · rename_i _ hae
        subst hae
        simp [cellRead, h.symm]
      · simp only [cellRead, ih]

/-- A read of the address written gives the value written. -/
theorem cellRead_cellWrite_same {w : Nat} (dflt v : BitVec w) (a : Nat) (mem : List (Nat × BitVec w)) :
    cellRead dflt (cellWrite dflt a v mem) a = v := by
  unfold cellWrite
  split
  · rename_i hv; rw [hv]; exact cellRead_cellErase_same dflt a mem
  · exact cellRead_cellInsert_same dflt v a mem

/-- A write leaves every other address as it was. -/
theorem cellRead_cellWrite_other {w : Nat} (dflt v : BitVec w) {a b : Nat} (mem : List (Nat × BitVec w)) (h : b ≠ a) :
    cellRead dflt (cellWrite dflt a v mem) b = cellRead dflt mem b := by
  unfold cellWrite
  split
  · exact cellRead_cellErase_other dflt mem h
  · exact cellRead_cellInsert_other dflt v mem h

/-- A canonical form from `m` on is one from any lower address on. -/
theorem wfFrom_weaken {w : Nat} {dflt : BitVec w} {last m k : Nat} (hk : k ≤ m) (mem : List (Nat × BitVec w))
    (h : Memory.wfFrom dflt last m mem = true) : Memory.wfFrom dflt last k mem = true := by
  cases mem with
  | nil => rfl
  | cons d l =>
    obtain ⟨e, x⟩ := d
    simp only [Memory.wfFrom, Bool.and_eq_true, decide_eq_true_eq] at h ⊢
    exact ⟨⟨⟨by omega, h.1.1.2⟩, h.1.2⟩, h.2⟩

/-- Erasing keeps the canonical form. -/
theorem cellErase_wfFrom {w : Nat} (dflt : BitVec w) {a last lo : Nat} (mem : List (Nat × BitVec w))
    (h : Memory.wfFrom dflt last lo mem = true) : Memory.wfFrom dflt last lo (cellErase a mem) = true := by
  induction mem generalizing lo with
  | nil => rfl
  | cons c rest ih =>
    obtain ⟨b, u⟩ := c
    simp only [Memory.wfFrom, Bool.and_eq_true, decide_eq_true_eq] at h
    unfold cellErase
    split
    · exact wfFrom_weaken (by omega) _ (ih h.2)
    · simp only [Memory.wfFrom, Bool.and_eq_true, decide_eq_true_eq]; exact ⟨h.1, ih h.2⟩

/-- Inserting a value other than the default keeps the canonical form. -/
theorem cellInsert_wfFrom {w : Nat} (dflt v : BitVec w) {a last lo : Nat} (mem : List (Nat × BitVec w))
    (h : Memory.wfFrom dflt last lo mem = true) (hv : v ≠ dflt) (hlo : lo ≤ a) (hla : a ≤ last) :
    Memory.wfFrom dflt last lo (cellInsert a v mem) = true := by
  induction mem generalizing lo with
  | nil => simp [cellInsert, Memory.wfFrom, hv, hlo, hla]
  | cons c rest ih =>
    obtain ⟨b, u⟩ := c
    simp only [Memory.wfFrom, Bool.and_eq_true, decide_eq_true_eq] at h
    unfold cellInsert
    split
    · simp only [Memory.wfFrom, Bool.and_eq_true, decide_eq_true_eq]
      exact ⟨⟨⟨hlo, hla⟩, hv⟩, ⟨⟨by omega, h.1.1.2⟩, h.1.2⟩, h.2⟩
    · split
      · rename_i _ hab
        subst hab
        simp only [Memory.wfFrom, Bool.and_eq_true, decide_eq_true_eq]
        exact ⟨⟨⟨hlo, hla⟩, hv⟩, h.2⟩
      · simp only [Memory.wfFrom, Bool.and_eq_true, decide_eq_true_eq]
        exact ⟨h.1, ih h.2 (by omega)⟩

/-- A write keeps the canonical form. -/
theorem cellWrite_wfFrom {w : Nat} (dflt v : BitVec w) {a last lo : Nat} (mem : List (Nat × BitVec w))
    (h : Memory.wfFrom dflt last lo mem = true) (hlo : lo ≤ a) (hla : a ≤ last) :
    Memory.wfFrom dflt last lo (cellWrite dflt a v mem) = true := by
  unfold cellWrite
  split
  · exact cellErase_wfFrom dflt mem h
  · rename_i hv; exact cellInsert_wfFrom dflt v mem h hv hlo hla

/-- A write keeps the canonical form of a whole memory. -/
theorem cellWrite_wf {w : Nat} (dflt v : BitVec w) {a last : Nat} (mem : List (Nat × BitVec w))
    (h : Memory.wf dflt last mem = true) (hla : a ≤ last) : Memory.wf dflt last (cellWrite dflt a v mem) = true :=
  cellWrite_wfFrom dflt v mem h (Nat.zero_le _) hla

/-- A nibble widened to a byte is below 16. -/
theorem widened_lt (v : Nibble) : (v.setWidth 8 : BitVec 8).toNat < 16 := by
  rw [BitVec.toNat_setWidth]; omega

/-- Erasing an entry leaves nibbles. -/
theorem cellErase_nibbles (a : Nat) (ram : List Host.Cell) (h : nibbleCells ram = true) :
    nibbleCells (cellErase a ram) = true := by
  unfold nibbleCells at *
  induction ram with
  | nil => rfl
  | cons c rest ih =>
    obtain ⟨b, u⟩ := c
    simp only [List.all_cons, Bool.and_eq_true] at h
    unfold cellErase
    split
    · exact ih h.2
    · simp only [List.all_cons, Bool.and_eq_true]; exact ⟨h.1, ih h.2⟩

/-- Inserting a nibble leaves nibbles. -/
theorem cellInsert_nibbles (a : Nat) (v : BitVec 8) (hv : v.toNat < 16) (ram : List Host.Cell)
    (h : nibbleCells ram = true) : nibbleCells (cellInsert a v ram) = true := by
  unfold nibbleCells at *
  induction ram with
  | nil => simp [cellInsert, hv]
  | cons c rest ih =>
    obtain ⟨b, u⟩ := c
    simp only [List.all_cons, Bool.and_eq_true, decide_eq_true_eq] at h
    unfold cellInsert
    split
    · simp only [List.all_cons, Bool.and_eq_true, decide_eq_true_eq]; exact ⟨hv, h⟩
    · split
      · simp only [List.all_cons, Bool.and_eq_true, decide_eq_true_eq]; exact ⟨hv, h.2⟩
      · simp only [List.all_cons, Bool.and_eq_true, decide_eq_true_eq]; exact ⟨h.1, ih h.2⟩

/-- A write of a nibble leaves nibbles. -/
theorem ramWrite_nibbles (a : Nat) (v : Nibble) (ram : List Host.Cell) (h : nibbleCells ram = true) :
    nibbleCells (ramWrite a v ram) = true := by
  unfold ramWrite cellWrite
  split
  · exact cellErase_nibbles a ram h
  · exact cellInsert_nibbles a _ (widened_lt v) ram h

/-- A write of a nibble to data memory keeps the canonical form. -/
theorem ramWrite_wf {a last : Nat} (v : Nibble) (ram : List Host.Cell) (h : Memory.wf ramDefault last ram = true)
    (ha : a ≤ last) : Memory.wf ramDefault last (ramWrite a v ram) = true :=
  cellWrite_wf ramDefault _ ram h ha

/-- The nibble written is read back. -/
theorem ramRead_ramWrite_same (a : Nat) (v : Nibble) (ram : List Host.Cell) :
    ramRead (ramWrite a v ram) a = v := by
  unfold ramRead ramWrite
  rw [cellRead_cellWrite_same ramDefault _ a ram]
  ext i; simp

/-- A write of a nibble leaves the other addresses. -/
theorem ramRead_ramWrite_other {a b : Nat} (v : Nibble) (ram : List Host.Cell) (h : b ≠ a) :
    ramRead (ramWrite a v ram) b = ramRead ram b := by
  unfold ramRead ramWrite
  rw [cellRead_cellWrite_other ramDefault _ ram h]

/-- Drawing free nibbles keeps the canonical form. -/
theorem drawRam_wf {last : Nat} (slot : Nat) (addrs : List Nat) (ram : List Host.Cell)
    (h : Memory.wf ramDefault last ram = true) (ha : ∀ a ∈ addrs, a ≤ last) :
    Memory.wf ramDefault last (drawRam slot addrs ram) = true := by
  induction addrs generalizing ram with
  | nil => exact h
  | cons a rest ih =>
    exact ih _ (ramWrite_wf _ ram h (ha a (by simp))) (fun b hb => ha b (by simp [hb]))

/-- Drawing free nibbles leaves nibbles. -/
theorem drawRam_nibbles (slot : Nat) (addrs : List Nat) (ram : List Host.Cell) (h : nibbleCells ram = true) :
    nibbleCells (drawRam slot addrs ram) = true := by
  induction addrs generalizing ram with
  | nil => exact h
  | cons a rest ih => exact ih _ (ramWrite_nibbles _ _ ram h)

/-- Drawing free nibbles leaves every address that is not drawn. -/
theorem ramRead_drawRam_other (slot : Nat) (addrs : List Nat) (ram : List Host.Cell) {b : Nat} (h : b ∉ addrs) :
    ramRead (drawRam slot addrs ram) b = ramRead ram b := by
  induction addrs generalizing ram with
  | nil => rfl
  | cons a rest ih =>
    simp only [List.mem_cons, not_or] at h
    exact (ih _ h.2).trans (ramRead_ramWrite_other _ ram h.1)

/-- Placing a word in program memory keeps its canonical form. -/
theorem withFetchWord_romWf (s : State) (nbits w : Nat) (h : Memory.wf romDefault 0x3FF s.rom = true) :
    Memory.wf romDefault 0x3FF (s.withFetchWord nbits w).rom = true :=
  cellWrite_wf romDefault _ s.rom h (by have := s.pc.isLt; omega)

end Sys2Proof.Machine
end

