-- ==== Sys2Proof/Laws/Ops.lean ====
section
/-! SUPPORT. Laws about the shared operations: what a read and a write of data memory do in each region, that a write
stores exactly one nibble, and everything a push, a pop and the Table 7-1 guard can answer. -/
namespace Sys2Proof.Machine

/-- A read of mounted data memory. -/
theorem memRead_of_ram {s : State} {a : DataAddr} (site : Draw) (h : region s.chip.part a = .ram) :
    memRead s site a = ramRead s.ram a.toNat := by simp only [memRead, h]

/-- A read of unmounted data memory is free. -/
theorem memRead_of_unmounted {s : State} {a : DataAddr} (site : Draw) (h : region s.chip.part a = .unmounted) :
    memRead s site a = Config.free s.slot site 4 := by simp only [memRead, h]

/-- A read of a port register. -/
theorem memRead_of_port {s : State} {a : DataAddr} {p : Port} (site : Draw) (h : region s.chip.part a = .port p) :
    memRead s site a = portRead s site p := by simp only [memRead, h]

/-- A read of the system register. -/
theorem memRead_of_system {s : State} {a : DataAddr} (site : Draw) (h : region s.chip.part a = .system) :
    memRead s site a = sysRead s a := by simp only [memRead, h]

/-- A write to mounted data memory. -/
theorem memWrite_of_ram {s : State} {a : DataAddr} (v : Nibble) (h : region s.chip.part a = .ram) :
    memWrite s a v = { s with ram := ramWrite a.toNat v s.ram } := by simp only [memWrite, h]

/-- A write to unmounted data memory does nothing. -/
theorem memWrite_of_unmounted {s : State} {a : DataAddr} (v : Nibble) (h : region s.chip.part a = .unmounted) :
    memWrite s a v = s := by simp only [memWrite, h]

/-- A write to a port register. -/
theorem memWrite_of_port {s : State} {a : DataAddr} {p : Port} (v : Nibble) (h : region s.chip.part a = .port p) :
    memWrite s a v = portWrite s p v := by simp only [memWrite, h]

/-- A write to the system register. -/
theorem memWrite_of_system {s : State} {a : DataAddr} (v : Nibble) (h : region s.chip.part a = .system) :
    memWrite s a v = sysWrite s a v := by simp only [memWrite, h]

/-- Mounted data memory is what lies at or below RAM_LAST. -/
theorem region_ram_iff {part : Part} {a : DataAddr} : region part a = .ram ↔ a.toNat ≤ part.ramLast := by
  unfold region
  by_cases h : a.toNat ≤ part.ramLast
  · simp [h]
  · simp only [h, if_false, iff_false]
    split
    · simp
    · split <;> simp

/-- The address of a port register (R106). -/
def portAddr : Port → DataAddr
  | .e => 0x6F
  | .a => 0x70
  | .b => 0x71
  | .c => 0x72
  | .d => 0x73

/-- A port register lies at its address. -/
theorem region_port {part : Part} {a : DataAddr} {p : Port} (h : region part a = .port p) : a = portAddr p := by
  unfold region at h
  split at h
  · cases h
  · split at h
    · cases h
    · split at h <;> cases h <;> apply BitVec.eq_of_toNat_eq <;> assumption

/-- Two addresses of the same port are equal. -/
theorem region_port_unique {part : Part} {a b : DataAddr} {p : Port} (ha : region part a = .port p)
    (hb : region part b = .port p) : a = b := (region_port ha).trans (region_port hb).symm

/-- The addresses of the system register (R35). -/
theorem region_system {part : Part} {a : DataAddr} (h : region part a = .system) : 0x74 ≤ a.toNat := by
  unfold region at h
  split at h
  · cases h
  · split at h
    · cases h
    · by_contra hlt
      have : a.toNat = 0x6F ∨ a.toNat = 0x70 ∨ a.toNat = 0x71 ∨ a.toNat = 0x72 ∨ a.toNat = 0x73 := by omega
      rcases this with e | e | e | e | e <;> simp [e] at h

/-- The bits of a 2-bit value over an 8-bit one. -/
theorem append_2_8 (x : BitVec 2) (y : BitVec 8) (i : Nat) :
    BitVec.getLsbD (w := 10) (x ++ y) i = if i < 8 then y.getLsbD i else x.getLsbD (i - 8) := BitVec.getLsbD_append
/-- The bits of a 6-bit value over a nibble. -/
theorem append_6_4 (x : BitVec 6) (y : BitVec 4) (i : Nat) :
    BitVec.getLsbD (w := 10) (x ++ y) i = if i < 4 then y.getLsbD i else x.getLsbD (i - 4) := BitVec.getLsbD_append
/-- The bits of a 2-bit value over a nibble. -/
theorem append_2_4 (x : BitVec 2) (y : BitVec 4) (i : Nat) :
    BitVec.getLsbD (w := 6) (x ++ y) i = if i < 4 then y.getLsbD i else x.getLsbD (i - 4) := BitVec.getLsbD_append
/-- The bits of a 3-bit value over a nibble. -/
theorem append_3_4 (x : BitVec 3) (y : BitVec 4) (i : Nat) :
    BitVec.getLsbD (w := 7) (x ++ y) i = if i < 4 then y.getLsbD i else x.getLsbD (i - 4) := BitVec.getLsbD_append
/-- The bits of one bit over a 3-bit value. -/
theorem append_1_3 (x : BitVec 1) (y : BitVec 3) (i : Nat) :
    BitVec.getLsbD (w := 4) (x ++ y) i = if i < 3 then y.getLsbD i else x.getLsbD (i - 3) := BitVec.getLsbD_append
/-- The bits of a 3-bit value over one bit. -/
theorem append_3_1 (x : BitVec 3) (y : BitVec 1) (i : Nat) :
    BitVec.getLsbD (w := 4) (x ++ y) i = if i < 1 then y.getLsbD i else x.getLsbD (i - 1) := BitVec.getLsbD_append
/-- The bits of `nibble`. -/
theorem nibble_bit (b3 b2 b1 b0 : Bool) (i : Nat) : (nibble b3 b2 b1 b0).getLsbD i =
    (if i = 0 then b0 else if i = 1 then b1 else if i = 2 then b2 else if i = 3 then b3 else false) := by
  rcases i with _ | _ | _ | _ | i
  · revert b3 b2 b1 b0; decide
  · revert b3 b2 b1 b0; decide
  · revert b3 b2 b1 b0; decide
  · revert b3 b2 b1 b0; decide
  · simp

/-- What a system register nibble holds after a write to it: the existing bits of the value (R45). -/
theorem sysRead_sysWrite_same (s : State) (a : DataAddr) (v : Nibble) :
    sysRead (sysWrite s a v) a = v &&& existingBits a := by
  unfold sysWrite existingBits
  split <;> simp_all only [sysRead] <;> apply BitVec.eq_of_getLsbD_eq <;> intro i hi <;>
    (rcases i with _ | _ | _ | _ | i <;> first
      | omega
      | simp [-BitVec.getLsbD_eq_getElem, nibble_bit, append_2_8, append_6_4, append_2_4, append_3_4, append_1_3, append_3_1, BitVec.getLsbD_extractLsb'])

/-- A write to a system register nibble leaves every other one. -/
theorem sysRead_sysWrite_other (s : State) {a b : DataAddr} (v : Nibble) (h : b ≠ a) :
    sysRead (sysWrite s a v) b = sysRead s b := by
  have hn : b.toNat ≠ a.toNat := fun e => h (BitVec.eq_of_toNat_eq e)
  unfold sysWrite
  split <;> first
    | rfl
    | (rename_i ha
       rw [ha] at hn
       unfold sysRead
       split <;> first
         | rfl
         | (rename_i hb; exact absurd hb hn)
         | (apply BitVec.eq_of_getLsbD_eq
            intro i hi
            rcases i with _ | _ | _ | _ | i <;> first
             | omega
             | simp [-BitVec.getLsbD_eq_getElem, nibble_bit, append_2_8, append_6_4, append_2_4, append_3_4, append_1_3, BitVec.getLsbD_extractLsb']))

/-- The bits of a 2-bit field in a nibble. -/
theorem lowPair_bit (v : BitVec 2) (i : Nat) : (lowPair v).getLsbD i = v.getLsbD i := by
  rcases i with _ | _ | i
  · revert v; decide
  · revert v; decide
  · simp [lowPair, nibble_bit]

/-- A write to a port latch leaves every other latch. -/
theorem portLatch_portWrite_other (s : State) {p q : Port} (v : Nibble) (h : q ≠ p) :
    portLatch (portWrite s p v) q = portLatch s q := by
  cases p <;> cases q <;> first | exact absurd rfl h | rfl

/-- A write to a port leaves the system register. -/
theorem sysRead_portWrite (s : State) (p : Port) (v : Nibble) (a : DataAddr) :
    sysRead (portWrite s p v) a = sysRead s a := by
  cases p <;> rfl

/-- A write to the system register leaves the chip, data memory and the ports. -/
theorem sysWrite_frame (s : State) (a : DataAddr) (v : Nibble) :
    sysWrite s a v = { s with ar := (sysWrite s a v).ar, wr := (sysWrite s a v).wr, mpe := (sysWrite s a v).mpe,
                              ix := (sysWrite s a v).ix, rprow := (sysWrite s a v).rprow,
                              psw := (sysWrite s a v).psw } := by
  unfold sysWrite
  split <;> rfl

/-- A write to a port leaves all but its latch. -/
theorem portWrite_frame (s : State) (p : Port) (v : Nibble) :
    portWrite s p v = { s with ports := { s.ports with
      latchA := (portWrite s p v).ports.latchA, latchB := (portWrite s p v).ports.latchB,
      latchC := (portWrite s p v).ports.latchC, latchD := (portWrite s p v).ports.latchD,
      latchE := (portWrite s p v).ports.latchE } } := by
  cases p <;> rfl

/-- What a write changes: at most the system register, data memory and the ports. -/
theorem memWrite_frame (s : State) (a : DataAddr) (v : Nibble) :
    memWrite s a v = { s with
      ar := (memWrite s a v).ar, wr := (memWrite s a v).wr, mpe := (memWrite s a v).mpe, ix := (memWrite s a v).ix,
      rprow := (memWrite s a v).rprow, psw := (memWrite s a v).psw, ram := (memWrite s a v).ram,
      ports := (memWrite s a v).ports } := by
  unfold memWrite
  split
  · rfl
  · rfl
  · cases ‹Port› <;> rfl
  · unfold sysWrite; split <;> rfl

/-- What a write changes in the ports: at most the latches. -/
theorem memWrite_ports_frame (s : State) (a : DataAddr) (v : Nibble) :
    (memWrite s a v).ports = { s.ports with
      latchA := (memWrite s a v).ports.latchA, latchB := (memWrite s a v).ports.latchB,
      latchC := (memWrite s a v).ports.latchC, latchD := (memWrite s a v).ports.latchD,
      latchE := (memWrite s a v).ports.latchE } := by
  unfold memWrite
  split
  · rfl
  · rfl
  · cases ‹Port› <;> rfl
  · unfold sysWrite; split <;> rfl

/-- A port 0E latch bit after a write. -/
theorem latchE_write (s : State) (v : Nibble) :
    portLatch (portWrite s .e v) .e =
      (v &&& (if s.chip.p0eInputWrite = .latched then 0b0011 else lowPair s.ports.ebio)) |||
        (portLatch s .e &&& ~~~(if s.chip.p0eInputWrite = .latched then 0b0011 else lowPair s.ports.ebio)) := by
  unfold portLatch portWrite latchEBit
  cases s.chip.p0eInputWrite <;> simp only [reduceCtorEq, if_true, if_false, beq_self_eq_true, Bool.or_true] <;>
    generalize s.ports.ebio = e <;> generalize s.ports.latchE = l
  · revert v e l; decide
  · revert v e l; decide

/-- A write to a port leaves what a read of every other port returns. -/
theorem portRead_portWrite_other (s : State) (site : Draw) {p q : Port} (v : Nibble) (h : q ≠ p) :
    portRead (portWrite s p v) site q = portRead s site q := by
  cases p <;> cases q <;> first | exact absurd rfl h | rfl

/-- A write to the system register leaves what a read of a port returns. -/
theorem portRead_sysWrite (s : State) (site : Draw) (a : DataAddr) (v : Nibble) (q : Port) :
    portRead (sysWrite s a v) site q = portRead s site q := by
  rw [sysWrite_frame]
  cases q <;> rfl

/-- A write stores one nibble and leaves every other one (R108, R110, R390). -/
theorem memWrite_storesNibble (s : State) (a : DataAddr) (v : Nibble) : StoresNibble s a v (memWrite s a v) := by
  have hc : (memWrite s a v).chip = s.chip := by rw [memWrite_frame]
  refine ⟨⟨memWrite_frame s a v, memWrite_ports_frame s a v, ?_⟩, ?_⟩
  · intro b hb
    have hn : b.toNat ≠ a.toNat := fun e => hb (BitVec.eq_of_toNat_eq e)
    cases hq : region s.chip.part b with
    | ram =>
      simp only [storedNibble, memRead, hc, hq]
      suffices h : ramRead (memWrite s a v).ram b.toNat = ramRead s.ram b.toNat from ⟨h, fun _ => h⟩
      cases hr : region s.chip.part a with
      | ram => rw [memWrite_of_ram v hr]; exact ramRead_ramWrite_other v s.ram hn
      | unmounted => rw [memWrite_of_unmounted v hr]
      | port p => rw [memWrite_of_port v hr, portWrite_frame]
      | system => rw [memWrite_of_system v hr, sysWrite_frame]
    | unmounted =>
      have hs : (memWrite s a v).slot = s.slot := by rw [memWrite_frame]
      simp only [storedNibble, memRead, hc, hq, hs, implies_true, and_true]
      cases hr : region s.chip.part a with
      | ram => rw [memWrite_of_ram v hr]; exact ramRead_ramWrite_other v s.ram hn
      | unmounted => rw [memWrite_of_unmounted v hr]
      | port p => rw [memWrite_of_port v hr, portWrite_frame]
      | system => rw [memWrite_of_system v hr, sysWrite_frame]
    | port q =>
      simp only [storedNibble, memRead, hc, hq]
      cases hr : region s.chip.part a with
      | ram => rw [memWrite_of_ram v hr]; cases q <;> exact ⟨rfl, fun _ => rfl⟩
      | unmounted => rw [memWrite_of_unmounted v hr]; exact ⟨rfl, fun _ => rfl⟩
      | port p =>
        have hqp : q ≠ p := fun e => hb (region_port_unique (e ▸ hq) hr)
        rw [memWrite_of_port v hr]
        exact ⟨portLatch_portWrite_other s v hqp, fun site => portRead_portWrite_other s site v hqp⟩
      | system =>
        rw [memWrite_of_system v hr]
        refine ⟨?_, fun site => portRead_sysWrite s site a v q⟩
        rw [sysWrite_frame]
        cases q <;> rfl
    | system =>
      simp only [storedNibble, memRead, hc, hq]
      suffices h : sysRead (memWrite s a v) b = sysRead s b from ⟨h, fun _ => h⟩
      cases hr : region s.chip.part a with
      | ram => rw [memWrite_of_ram v hr]; rfl
      | unmounted => rw [memWrite_of_unmounted v hr]
      | port p => rw [memWrite_of_port v hr]; exact sysRead_portWrite s p v b
      | system => rw [memWrite_of_system v hr]; exact sysRead_sysWrite_other s v hb
  · simp only [storedNibble, keptNibble, hc]
    cases hr : region s.chip.part a with
    | ram => rw [memWrite_of_ram v hr]; exact ramRead_ramWrite_same _ v s.ram
    | unmounted => rw [memWrite_of_unmounted v hr]
    | port p =>
      rw [memWrite_of_port v hr]
      cases p <;> first | rfl | exact latchE_write s v
    | system => rw [memWrite_of_system v hr]; exact sysRead_sysWrite_same s a v

/-- All a push and what follows it can answer (R321). -/
theorem withPush_cases {v : CodeAddr} {s t : State} {act : State → State} (h : withPush v s act = .next t) :
    (pushFaults s = true ∧ t = stackFaultReset s) ∨ (pushFaults s = false ∧ t = act (push v s)) := by
  unfold withPush at h
  cases hp : pushFaults s <;> rw [hp] at h <;> cases h
  · exact .inr ⟨rfl, rfl⟩
  · exact .inl ⟨rfl, rfl⟩

/-- All a pop and what follows it can answer (R321). -/
theorem withPop_cases {s t : State} {act : CodeAddr → State → State} (h : withPop s act = .next t) :
    (popFaults s = true ∧ t = stackFaultReset s) ∨ (popFaults s = false ∧ t = act (asrRead s s.sp) (pop s)) := by
  unfold withPop at h
  cases hp : popFaults s <;> rw [hp] at h <;> cases h
  · exact .inr ⟨rfl, rfl⟩
  · exact .inl ⟨rfl, rfl⟩

/-- All an instruction of Table 7-1 can answer with a next state (R115, R118). -/
theorem tableGuard_cases {s t : State} {act : Answer State} (h : tableGuard s act = .next t) :
    (s.psw.ixe && s.mpe) = false ∧ act = .next t := by
  unfold tableGuard at h
  cases hg : s.psw.ixe && s.mpe <;> rw [hg] at h
  · exact ⟨rfl, h⟩
  · cases h

/-- Outside the stuck case the guard lets the instruction run. -/
theorem tableGuard_open {s : State} (act : Answer State) (h : (s.psw.ixe && s.mpe) = false) :
    tableGuard s act = act := by
  simp only [tableGuard, h, Bool.false_eq_true, if_false]

end Sys2Proof.Machine
end

