-- ==== Sys2Proof/Laws/Invariant.lean ====
section
/-! SUPPORT. Laws about the invariant: every shared operation keeps it. -/
namespace Sys2Proof.Machine

/-- The parts have data memory beyond the data buffer (R6, R52). -/
theorem dbfAddrs_le (p : Part) : ∀ a ∈ dbfAddrs, a ≤ p.ramLast := by cases p <;> decide

/-- Data memory with the data buffer in it keeps the canonical form when free nibbles are drawn into the buffer. -/
theorem drawDbf_wf {s : State} (hi : Inv s) : Memory.wf ramDefault s.chip.part.ramLast (drawRam s.slot dbfAddrs s.ram) :=
  drawRam_wf _ _ _ hi.ramWf (dbfAddrs_le _)

/-- Undefined data memory has the canonical form. -/
theorem undefinedRam_wf (s : State) : Memory.wf ramDefault s.chip.part.ramLast (undefinedRam s) :=
  drawRam_wf _ _ _ rfl fun a ha => by have := List.mem_range.1 ha; omega

/-- Undefined data memory holds nibbles. -/
theorem undefinedRam_nibbles (s : State) : nibbleCells (undefinedRam s) := drawRam_nibbles _ _ _ rfl

/-- The common part of the resets keeps the invariant once the mode is a legal one. -/
theorem pinResetStandby_inv {s : State} (hi : Inv s) (m : Mode) (hm : legalMode m) :
    Inv { pinResetStandby s with mode := m } where
  ramWf := drawDbf_wf hi
  ramNibbles := drawRam_nibbles _ _ _ hi.ramNibbles
  romWf := hi.romWf
  spLegal := by show (5 : BitVec 3).toNat ≤ 5; decide
  eiLegal := by show (0 : BitVec 2).toNat ≤ 2; decide
  modeLegal := hm
  skipRuns h := by cases h
  comparing := rfl
  comparingBound := Nat.zero_le _
  serialEnabled h := by cases h
  moduloNonzero := by show (0xFF : BitVec 8) ≠ 0; decide

/-- Noting SIOSFR for a reset in standby keeps the invariant (R93). -/
theorem retainShiftRegister_inv {s : State} (hi : Inv s) : Inv (retainShiftRegister s) :=
  ⟨hi.ramWf, hi.ramNibbles, hi.romWf, hi.spLegal, hi.eiLegal, hi.modeLegal, hi.skipRuns, hi.comparing, hi.comparingBound,
    hi.serialEnabled, hi.moduloNonzero⟩

/-- The initialization by STOP 0000B keeps the invariant (R362). -/
theorem stopInitialize_inv {s : State} (hi : Inv s) : Inv (stopInitialize s) :=
  pinResetStandby_inv (retainShiftRegister_inv hi) _ rfl

/-- A pin reset keeps the invariant. -/
theorem pinReset_inv {s : State} (hi : Inv s) (m : Mode) (hm : legalMode m) : Inv { pinReset s with mode := m } where
  ramWf := undefinedRam_wf s
  ramNibbles := undefinedRam_nibbles s
  romWf := hi.romWf
  spLegal := by show (5 : BitVec 3).toNat ≤ 5; decide
  eiLegal := by show (0 : BitVec 2).toNat ≤ 2; decide
  modeLegal := hm
  skipRuns h := by cases h
  comparing := rfl
  comparingBound := Nat.zero_le _
  serialEnabled h := by cases h
  moduloNonzero := by show (0xFF : BitVec 8) ≠ 0; decide

/-- The stack fault reset keeps the invariant. -/
theorem stackFaultReset_inv {s : State} (hi : Inv s) : Inv (stackFaultReset s) where
  ramWf := undefinedRam_wf s
  ramNibbles := undefinedRam_nibbles s
  romWf := hi.romWf
  spLegal := by show (5 : BitVec 3).toNat ≤ 5; decide
  eiLegal := by show (0 : BitVec 2).toNat ≤ 2; decide
  modeLegal := rfl
  skipRuns h := by cases h
  comparing := rfl
  comparingBound := Nat.zero_le _
  serialEnabled h := by cases h
  moduloNonzero := by show (0xFF : BitVec 8) ≠ 0; decide

/-- The reset of a slot keeps the invariant. -/
theorem applyReset_inv {s : State} (hi : Inv s) : Inv (applyReset s) := by
  unfold applyReset
  cases s.mode
  · exact pinReset_inv hi _ rfl
  · exact pinResetStandby_inv hi _ rfl
  · exact pinResetStandby_inv hi _ rfl
  · exact pinReset_inv hi _ rfl

/-- A write to data memory keeps the invariant (R110). -/
theorem memWrite_inv {s : State} (hi : Inv s) (a : DataAddr) (v : Nibble) : Inv (memWrite s a v) := by
  cases hr : region s.chip.part a with
  | ram =>
    rw [memWrite_of_ram v hr]
    exact ⟨ramWrite_wf v _ hi.ramWf (region_ram_iff.1 hr), ramWrite_nibbles _ _ _ hi.ramNibbles, hi.romWf, hi.spLegal,
      hi.eiLegal, hi.modeLegal, hi.skipRuns, hi.comparing, hi.comparingBound, hi.serialEnabled, hi.moduloNonzero⟩
  | unmounted => rw [memWrite_of_unmounted v hr]; exact hi
  | port p =>
    rw [memWrite_of_port v hr, portWrite_frame]
    exact ⟨hi.1, hi.2, hi.3, hi.4, hi.5, hi.6, hi.7, hi.8, hi.9, hi.10, hi.11⟩
  | system =>
    rw [memWrite_of_system v hr, sysWrite_frame]
    exact ⟨hi.1, hi.2, hi.3, hi.4, hi.5, hi.6, hi.7, hi.8, hi.9, hi.10, hi.11⟩

/-- A write to the low half of the data buffer keeps the invariant. -/
theorem dbfWriteLow_inv {s : State} (hi : Inv s) (v : Byte) : Inv (dbfWriteLow v s) :=
  ⟨ramWrite_wf _ _ (ramWrite_wf _ _ hi.ramWf (dbfAddrs_le _ _ (by decide))) (dbfAddrs_le _ _ (by decide)),
    ramWrite_nibbles _ _ _ (ramWrite_nibbles _ _ _ hi.ramNibbles), hi.3, hi.4, hi.5, hi.6, hi.7, hi.8, hi.9, hi.10,
    hi.11⟩

/-- A write to the data buffer keeps the invariant. -/
theorem dbfWrite_inv {s : State} (hi : Inv s) (v : Word) : Inv (dbfWrite v s) := by
  refine dbfWriteLow_inv
    (s := { s with ram := ramWrite 0x0D (v.extractLsb' 8 4) (ramWrite 0x0C (v.extractLsb' 12 4) s.ram) }) ⟨?_, ?_, hi.3, hi.4, hi.5, hi.6, hi.7, hi.8, hi.9, hi.10, hi.11⟩ _
  · exact ramWrite_wf _ _ (ramWrite_wf _ _ hi.ramWf (dbfAddrs_le _ _ (by decide))) (dbfAddrs_le _ _ (by decide))
  · exact ramWrite_nibbles _ _ _ (ramWrite_nibbles _ _ _ hi.ramNibbles)

/-- A push that does not fault keeps the invariant (R29). -/
theorem push_inv {s : State} (hi : Inv s) (v : CodeAddr) (h : pushFaults s = false) : Inv (push v s) := by
  refine ⟨hi.1, hi.2, hi.3, ?_, hi.5, hi.6, hi.7, hi.8, hi.9, hi.10, hi.11⟩
  have : ¬ 4 < (s.sp - 1).toNat := by simpa [pushFaults] using h
  show (s.sp - 1).toNat ≤ 5
  omega

/-- A pop that does not fault keeps the invariant (R29). -/
theorem pop_inv {s : State} (hi : Inv s) (h : popFaults s = false) : Inv (pop s) := by
  refine ⟨hi.1, hi.2, hi.3, ?_, hi.5, hi.6, hi.7, hi.8, hi.9, hi.10, hi.11⟩
  have : ¬ 4 < s.sp.toNat := by simpa [popFaults] using h
  show (s.sp + 1).toNat ≤ 5
  bv_omega

/-- The commit of an arithmetic instruction keeps the invariant (R197). -/
theorem commit_inv {s : State} (hi : Inv s) (dest : DataAddr) (out : Bool × Nibble) : Inv (commit dest out s) := by
  have hf : Inv { s with psw := { s.psw with cy := out.1, z := zeroFlag s.psw out.2 } } :=
    ⟨hi.1, hi.2, hi.3, hi.4, hi.5, hi.6, hi.7, hi.8, hi.9, hi.10, hi.11⟩
  unfold commit
  split
  · exact memWrite_inv hi _ _
  · dsimp only
    split
    · exact hf
    · exact memWrite_inv hf _ _

/-- A count pulse keeps the invariant (R405). -/
theorem countPulse_inv {s : State} (hi : Inv s) : Inv (countPulse s) := by
  unfold countPulse
  split <;> exact ⟨hi.1, hi.2, hi.3, hi.4, hi.5, hi.6, hi.7, hi.8, hi.9, hi.10, hi.11⟩

/-- A count pulse of any mode keeps the invariant (R402). -/
theorem timerPulse_inv {s : State} (hi : Inv s) : Inv (timerPulse s) := by
  unfold timerPulse
  split
  · unfold waitPulse
    split
    · exact hi
    · exact ⟨hi.1, hi.2, hi.3, hi.4, hi.5, hi.6, hi.7, hi.8, hi.9, hi.10, hi.11⟩
  · exact countPulse_inv hi

/-- A slot of the timer keeps the invariant (R404). -/
theorem timerSlot_inv {s : State} (hi : Inv s) : Inv (timerSlot s) := by
  have ht : Inv { s with timer := { s.timer with presc := s.timer.presc + 16 } } :=
    ⟨hi.1, hi.2, hi.3, hi.4, hi.5, hi.6, hi.7, hi.8, hi.9, hi.10, hi.11⟩
  unfold timerSlot
  dsimp only
  split
  · exact timerPulse_inv ht
  · exact ht

/-- A write of the timer mode register keeps the invariant (R407). -/
theorem writeTimerMode_inv {s : State} (hi : Inv s) (w : Nibble) : Inv (writeTimerMode w s) := by
  have ht : Inv { s with timer := { s.timer with tmen := w.getLsbD 3, tmck := w.extractLsb' 0 2 } } :=
    ⟨hi.1, hi.2, hi.3, hi.4, hi.5, hi.6, hi.7, hi.8, hi.9, hi.10, hi.11⟩
  have hr : ∀ u : State, Inv u → Inv (timerReset u) := fun u hu =>
    ⟨hu.1, hu.2, hu.3, hu.4, hu.5, hu.6, hu.7, hu.8, hu.9, hu.10, hu.11⟩
  unfold writeTimerMode
  dsimp only
  split <;> split <;> first | exact hr _ (countPulse_inv ht) | exact countPulse_inv ht | exact hr _ ht | exact ht

/-- A write of the register file that goes through keeps the invariant (R125, R126). -/
theorem rfWrite_inv {s t : State} (hi : Inv s) (a : DataAddr) (v : Nibble) (h : rfWrite s a v = .next t) : Inv t := by
  unfold rfWrite at h
  split at h
  · unfold ctrlWrite at h
    split at h
    · cases h
      unfold writeSp
      split
      · exact stackFaultReset_inv hi
      · exact ⟨hi.1, hi.2, hi.3, by show (v.extractLsb' 0 3).toNat ≤ 5; omega, hi.5, hi.6, hi.7, hi.8, hi.9, hi.10,
          hi.11⟩
    · unfold writeSioen at h
      split at h
      · cases h
      · cases h
        refine ⟨hi.1, hi.2, hi.3, hi.4, hi.5, hi.6, hi.7, hi.8, hi.9, ?_, hi.11⟩
        intro hs
        have hs' : s.serial.siots = true := hs
        rename_i hn
        simpa [hs'] using hn
    · cases h; exact ⟨hi.1, hi.2, hi.3, hi.4, hi.5, hi.6, hi.7, hi.8, hi.9, hi.10, hi.11⟩
    · cases h; exact writeTimerMode_inv hi v
    · cases h; exact ⟨hi.1, hi.2, hi.3, hi.4, hi.5, hi.6, hi.7, hi.8, hi.9, hi.10, hi.11⟩
    · unfold writeSerialMode at h
      split at h
      · cases h
      · cases h
        rename_i hn
        unfold writeSiots
        dsimp only
        split
        · split
          · exact ⟨hi.1, hi.2, hi.3, hi.4, hi.5, hi.6, hi.7, hi.8, hi.9, hi.10, hi.11⟩
          · refine ⟨hi.1, hi.2, hi.3, hi.4, hi.5, hi.6, hi.7, hi.8, hi.9, fun _ => ?_, hi.11⟩
            show s.serial.sioen = true
            simp_all
        · exact ⟨hi.1, hi.2, hi.3, hi.4, hi.5, hi.6, hi.7, hi.8, hi.9, (fun h => nomatch h), hi.11⟩
    · cases h
      unfold onComparator unlessComparing
      split
      · split
        · exact hi
        · exact ⟨hi.1, hi.2, hi.3, hi.4, hi.5, hi.6, hi.7, hi.8, hi.9, hi.10, hi.11⟩
      · exact hi
    · cases h
      unfold onComparator unlessComparing
      split
      · split
        · exact hi
        · exact ⟨hi.1, hi.2, hi.3, hi.4, hi.5, hi.6, hi.7, hi.8, hi.9, hi.10, hi.11⟩
      · exact hi
    · cases h
      unfold onComparator writeCmpstrt
      split
      · split
        · refine ⟨hi.1, hi.2, hi.3, hi.4, hi.5, hi.6, hi.7, ?_, Nat.le_refl _, hi.10, hi.11⟩
          rename_i hc _
          show true = decide (0 < s.chip.part.cmpCycles)
          revert hc
          cases s.chip.part <;> decide
        · exact hi
      · exact hi
    · cases h; exact ⟨hi.1, hi.2, hi.3, hi.4, hi.5, hi.6, hi.7, hi.8, hi.9, hi.10, hi.11⟩
    · cases h
      unfold onComparator
      split
      · exact ⟨hi.1, hi.2, hi.3, hi.4, hi.5, hi.6, hi.7, hi.8, hi.9, hi.10, hi.11⟩
      · exact hi
    all_goals first
      | (cases h; exact hi)
      | (cases h; exact ⟨hi.1, hi.2, hi.3, hi.4, hi.5, hi.6, hi.7, hi.8, hi.9, hi.10, hi.11⟩)
  · cases h; exact memWrite_inv hi a v

/-- GET keeps the invariant (R281). -/
theorem peripheralGet_inv {s : State} (hi : Inv s) (p : DataAddr) : Inv (peripheralGet p s) := by
  unfold peripheralGet
  split <;> first | exact dbfWriteLow_inv hi _ | exact dbfWrite_inv hi _

/-- PUT, where it goes through, keeps the invariant (R282, R403). -/
theorem peripheralPut_inv {s t : State} (hi : Inv s) (p : DataAddr) (h : peripheralPut p s = .next t) : Inv t := by
  unfold peripheralPut at h
  split at h
  · cases h; exact ⟨hi.1, hi.2, hi.3, hi.4, hi.5, hi.6, hi.7, hi.8, hi.9, hi.10, hi.11⟩
  · split at h
    · cases h
    · cases h
      rename_i hz
      exact ⟨hi.1, hi.2, hi.3, hi.4, hi.5, hi.6, hi.7, hi.8, hi.9, hi.10, hz⟩
  · cases h; exact ⟨hi.1, hi.2, hi.3, hi.4, hi.5, hi.6, hi.7, hi.8, hi.9, hi.10, hi.11⟩
  · cases h; exact hi

/-- The levels of a slot keep the invariant (R492). -/
theorem sampleLevels_inv {s : State} (hi : Inv s) (h : HostSlot) : Inv (sampleLevels h s) :=
  ⟨hi.1, hi.2, hi.3, hi.4, hi.5, hi.6, hi.7, hi.8, hi.9, hi.10, hi.11⟩

/-- The INT levels of a slot keep the invariant (R332). -/
theorem intLevels_inv {s : State} (hi : Inv s) (counting single : Bool) (levels : List Bool) :
    Inv (intLevels counting single levels s) := by
  have he : ∀ (u : State) (b : Bool), Inv u → Inv (intEdge b u) := fun u b hu =>
    ⟨hu.1, hu.2, hu.3, hu.4, hu.5, hu.6, hu.7, hu.8, hu.9, hu.10, hu.11⟩
  induction levels generalizing s counting with
  | nil => exact hi
  | cons b rest ih =>
    unfold intLevels
    split
    · exact ih (timerPulse_inv (he _ _ hi)) _
    · exact ih (he _ _ hi) _

/-- An edge of the serial clock keeps the invariant (R434). -/
theorem serialEdges_inv {s : State} (hi : Inv s) (edges : List Bool) : Inv (serialEdges edges s) := by
  have hf : ∀ u : State, Inv u → Inv (serialFall u) := by
    intro u hu
    unfold serialFall
    split <;> exact ⟨hu.1, hu.2, hu.3, hu.4, hu.5, hu.6, hu.7, hu.8, hu.9, hu.10, hu.11⟩
  have hr : ∀ u : State, Inv u → Inv (serialRise u) := by
    intro u hu
    unfold serialRise
    split
    · dsimp only
      split
      · exact ⟨hu.1, hu.2, hu.3, hu.4, hu.5, hu.6, hu.7, hu.8, hu.9, (fun h => nomatch h), hu.11⟩
      · exact ⟨hu.1, hu.2, hu.3, hu.4, hu.5, hu.6, hu.7, hu.8, hu.9, hu.10, hu.11⟩
    · exact hu
  unfold serialEdges
  induction edges generalizing s with
  | nil => exact hi
  | cons b rest ih => cases b <;> simp only [List.foldl_cons] <;> first | exact ih (hr _ hi) | exact ih (hf _ hi)

/-- The P0D levels of a slot keep the invariant (R440). -/
theorem dLevels_inv {s : State} (hi : Inv s) (levels : List Nibble) : Inv (levels.foldl dLevel s) := by
  induction levels generalizing s with
  | nil => exact hi
  | cons v rest ih =>
    refine ih ?_
    have ht : Inv { s with pins := { s.pins with d := v }, serial := { s.serial with sckPrev := v.getLsbD 0 } } :=
      ⟨hi.1, hi.2, hi.3, hi.4, hi.5, hi.6, hi.7, hi.8, hi.9, hi.10, hi.11⟩
    unfold dLevel
    dsimp only
    split
    · exact serialEdges_inv ht _
    · exact ht

/-- A slot of the internal serial clock keeps the invariant (R440). -/
theorem serialSlot_inv {s : State} (hi : Inv s) : Inv (serialSlot s) :=
  serialEdges_inv (s := { s with serial := { s.serial with sdiv := s.serial.sdiv + 16 } })
    ⟨hi.1, hi.2, hi.3, hi.4, hi.5, hi.6, hi.7, hi.8, hi.9, hi.10, hi.11⟩ _

/-- A slot of the comparator keeps the invariant (R421). -/
theorem comparatorSlot_inv {s : State} (hi : Inv s) : Inv (comparatorSlot s) := by
  have hb := hi.comparingBound
  have hc := hi.comparing
  unfold comparatorSlot
  split
  · exact hi
  · split
    · exact ⟨hi.1, hi.2, hi.3, hi.4, hi.5, hi.6, hi.7, rfl, Nat.zero_le _, hi.10, hi.11⟩
    · refine ⟨hi.1, hi.2, hi.3, hi.4, hi.5, hi.6, hi.7, ?_, ?_, hi.10, hi.11⟩
      · show s.comparator.strt = decide (0 < s.comparator.busy - 1)
        rw [hc]
        congr 1
        exact propext (by omega)
      · show s.comparator.busy - 1 ≤ s.chip.part.cmpCycles
        omega

/-- The events of a slot without a system clock keep the invariant (R363). -/
theorem stoppedDevices_inv {s : State} (hi : Inv s) (h : HostSlot) : Inv (stoppedDevices h s) :=
  dLevels_inv (intLevels_inv (sampleLevels_inv hi h) _ _ _) _

/-- The devices of a slot keep the invariant (R491). -/
theorem clockedDevices_inv {s : State} (hi : Inv s) (single : Bool) (h : HostSlot) : Inv (clockedDevices single h s) :=
  serialSlot_inv (dLevels_inv (timerSlot_inv (intLevels_inv (sampleLevels_inv hi h) _ _ _)) _)

/-- The devices of a slot, by the mode, keep the invariant (R491). -/
theorem slotDevices_inv {s : State} (hi : Inv s) (single comparing : Bool) (h : HostSlot) :
    Inv (slotDevices single comparing h s) := by
  unfold slotDevices
  split
  · dsimp only
    split
    · exact comparatorSlot_inv (clockedDevices_inv hi _ _)
    · exact clockedDevices_inv hi _ _
  · exact clockedDevices_inv hi _ _
  · exact clockedDevices_inv hi _ _
  · exact stoppedDevices_inv hi _

/-- Steps 4 and 5 of a slot keep the invariant (R491). -/
theorem closeSlot_inv {s : State} (hi : Inv s) (single comparing : Bool) (h : HostSlot) :
    Inv (closeSlot single comparing h s) := by
  refine slotDevices_inv ?_ _ _ _
  unfold tickEi
  split
  · exact hi
  · have := hi.eiLegal
    refine ⟨hi.1, hi.2, hi.3, hi.4, ?_, hi.6, hi.7, hi.8, hi.9, hi.10, hi.11⟩
    show (s.eiDelay - 1).toNat ≤ 2
    rename_i h0
    bv_omega

/-- Pins that settle keep the invariant (R461, R491 2d). -/
theorem settlePins_inv {s : State} (hi : Inv s) (h : HostSlot) : Inv (settlePins h s) :=
  ⟨hi.1, hi.2, hi.3, hi.4, hi.5, hi.6, hi.7, hi.8, hi.9, hi.10, hi.11⟩

end Sys2Proof.Machine
end

