-- ==== Sys2Proof/Laws/Devices.lean ====
section
/-! SUPPORT. Laws about the pins and on-chip devices: they change nothing a program holds in its registers, flags and
memories, and clear no request. -/
namespace Sys2Proof.Machine

/-- Nothing changed. -/
theorem DevicesOnly.refl (s : State) : DevicesOnly s s := ⟨rfl, ⟨id, id, id⟩, fun _ _ => rfl⟩

/-- Two device actions in a row are one. -/
theorem DevicesOnly.trans {s t u : State} (h : DevicesOnly s t) (k : DevicesOnly t u) : DevicesOnly s u := by
  obtain ⟨h1, h2, h3⟩ := h
  obtain ⟨k1, k2, k3⟩ := k
  refine ⟨?_, ⟨k2.1 ∘ h2.1, k2.2.1 ∘ h2.2.1, k2.2.2 ∘ h2.2.2⟩, fun n hn => (k3 n hn).trans (h3 n hn)⟩
  refine k1.trans ?_
  rw [h1]

/-- A device action that clears no request and leaves the latch of port 0D. -/
theorem DevicesOnly.of_latch {s t : State} (h : t = { s with
      timer := { s.timer with tmc := t.timer.tmc, presc := t.timer.presc, tmout := t.timer.tmout }
      serial := { s.serial with siots := t.serial.siots, siosfr := t.serial.siosfr, count := t.serial.count,
                                armed := t.serial.armed, sdiv := t.serial.sdiv, sckPrev := t.serial.sckPrev }
      comparator := { s.comparator with strt := t.comparator.strt, rslt := t.comparator.rslt, busy := t.comparator.busy,
                                        disturbed := t.comparator.disturbed }
      req := t.req
      pins := t.pins
      intPrev := t.intPrev }) (hr : RequestsStay s t) : DevicesOnly s t := by
  have hp : t.ports = s.ports := by rw [h]
  refine ⟨?_, hr, fun n _ => by rw [hp]⟩
  rw [hp]
  exact h

/-- The requests are as before. -/
theorem RequestsStay.of_eq {s t : State} (h : t.req = s.req) : RequestsStay s t := by
  unfold RequestsStay; rw [h]; exact ⟨id, id, id⟩

/-- A count pulse acts on devices only (R405). -/
theorem countPulse_devices (s : State) : DevicesOnly s (countPulse s) := by
  unfold countPulse
  split
  · exact .of_latch rfl ⟨id, fun _ => rfl, id⟩
  · exact .of_latch rfl (.of_eq rfl)

/-- A count pulse of any mode acts on devices only (R402). -/
theorem timerPulse_devices (s : State) : DevicesOnly s (timerPulse s) := by
  unfold timerPulse
  split
  · unfold waitPulse
    split
    · exact .refl s
    · exact .of_latch rfl (.of_eq rfl)
  · exact countPulse_devices s

/-- A level of INT acts on devices only (R332). -/
theorem intEdge_devices (b : Bool) (s : State) : DevicesOnly s (intEdge b s) :=
  .of_latch rfl ⟨id, id, fun h => by show (s.req.pin || _) = true; rw [h]; rfl⟩

/-- The levels of INT act on devices only (R332). -/
theorem intLevels_devices (counting single : Bool) (levels : List Bool) (s : State) :
    DevicesOnly s (intLevels counting single levels s) := by
  induction levels generalizing s counting with
  | nil => exact .refl s
  | cons b rest ih =>
    unfold intLevels
    split
    · exact ((intEdge_devices b s).trans (timerPulse_devices _)).trans (ih _ _)
    · exact (intEdge_devices b s).trans (ih _ _)

/-- A slot of the timer acts on devices only (R404). -/
theorem timerSlot_devices (s : State) : DevicesOnly s (timerSlot s) := by
  have ht : DevicesOnly s { s with timer := { s.timer with presc := s.timer.presc + 16 } } := .of_latch rfl (.of_eq rfl)
  unfold timerSlot
  dsimp only
  split
  · exact ht.trans (timerPulse_devices _)
  · exact ht

/-- A falling edge of the serial clock acts on devices only, on bit 1 of the latch of port 0D (R434, R438). -/
theorem serialFall_devices (s : State) : DevicesOnly s (serialFall s) := by
  unfold serialFall
  split
  · refine ⟨rfl, .of_eq rfl, fun n hn => ?_⟩
    show (nibble (s.ports.latchD.getLsbD 3) (s.ports.latchD.getLsbD 2) _ (s.ports.latchD.getLsbD 0)).getLsbD n = _
    have h4 : n < 4 ∨ 4 ≤ n := by omega
    rcases h4 with h4 | h4
    · have : n = 0 ∨ n = 2 ∨ n = 3 := by omega
      rcases this with rfl | rfl | rfl <;> rw [nibble_bit] <;> rfl
    · rw [BitVec.getLsbD_of_ge _ _ h4, BitVec.getLsbD_of_ge _ _ h4]
  · exact .refl s

/-- A rising edge of the serial clock acts on devices only (R434). -/
theorem serialRise_devices (s : State) : DevicesOnly s (serialRise s) := by
  unfold serialRise
  split
  · dsimp only
    split
    · exact .of_latch rfl ⟨fun _ => rfl, id, id⟩
    · exact .of_latch rfl (.of_eq rfl)
  · exact .refl s

/-- Edges of the serial clock act on devices only (R434, R438). -/
theorem serialEdges_devices (edges : List Bool) (s : State) : DevicesOnly s (serialEdges edges s) := by
  unfold serialEdges
  induction edges generalizing s with
  | nil => exact .refl s
  | cons b rest ih =>
    cases b <;> simp only [List.foldl_cons]
    · exact (serialFall_devices s).trans (ih _)
    · exact (serialRise_devices s).trans (ih _)

/-- Levels of P0D act on devices only (R440). -/
theorem dLevels_devices (levels : List Nibble) (s : State) : DevicesOnly s (levels.foldl dLevel s) := by
  induction levels generalizing s with
  | nil => exact .refl s
  | cons v rest ih =>
    refine .trans ?_ (ih _)
    have ht : DevicesOnly s { s with pins := { s.pins with d := v }, serial := { s.serial with sckPrev := v.getLsbD 0 } } :=
      .of_latch rfl (.of_eq rfl)
    unfold dLevel
    dsimp only
    split
    · exact ht.trans (serialEdges_devices _ _)
    · exact ht

/-- A slot of the comparator acts on devices only (R421). -/
theorem comparatorSlot_devices (s : State) : DevicesOnly s (comparatorSlot s) := by
  unfold comparatorSlot
  split
  · exact .refl s
  · split <;> exact .of_latch rfl (.of_eq rfl)

/-- The levels of a slot are devices' (R492). -/
theorem sampleLevels_devices (h : HostSlot) (s : State) : DevicesOnly s (sampleLevels h s) := .of_latch rfl (.of_eq rfl)

/-- The events of a slot without a system clock act on devices only (R363). -/
theorem stoppedDevices_devices (h : HostSlot) (s : State) : DevicesOnly s (stoppedDevices h s) :=
  (sampleLevels_devices h s).trans (.trans (intLevels_devices _ _ _ _) (dLevels_devices _ _))

/-- A slot of the internal serial clock acts on devices only (R440). -/
theorem serialSlot_devices (s : State) : DevicesOnly s (serialSlot s) :=
  .trans (t := { s with serial := { s.serial with sdiv := s.serial.sdiv + 16 } }) (.of_latch rfl (.of_eq rfl))
    (serialEdges_devices _ _)

/-- The devices of a slot act on devices only (R491). -/
theorem clockedDevices_devices (single : Bool) (h : HostSlot) (s : State) : DevicesOnly s (clockedDevices single h s) :=
  ((((sampleLevels_devices h s).trans (intLevels_devices _ _ _ _)).trans (timerSlot_devices _)).trans
    (dLevels_devices _ _)).trans (serialSlot_devices _)

/-- Step 5 of a slot acts on devices only (R491). -/
theorem slotDevices_devices (single comparing : Bool) (h : HostSlot) (s : State) :
    DevicesOnly s (slotDevices single comparing h s) := by
  unfold slotDevices
  split
  · dsimp only
    split
    · exact (clockedDevices_devices _ _ _).trans (comparatorSlot_devices _)
    · exact clockedDevices_devices _ _ _
  · exact clockedDevices_devices _ _ _
  · exact clockedDevices_devices _ _ _
  · exact stoppedDevices_devices _ _

/-- The mode after step 5 of a slot. -/
theorem slotDevices_mode (single comparing : Bool) (h : HostSlot) (s : State) :
    (slotDevices single comparing h s).mode = s.mode := by rw [(slotDevices_devices single comparing h s).1]

/-- The skip flag after step 5 of a slot. -/
theorem slotDevices_skipNext (single comparing : Bool) (h : HostSlot) (s : State) :
    (slotDevices single comparing h s).skipNext = s.skipNext := by rw [(slotDevices_devices single comparing h s).1]

/-- The timer did not match: IRQTM and the output flip-flop are as before. -/
def NoMatch (s t : State) : Prop := t.req.tm = s.req.tm ∧ t.timer.tmout = s.timer.tmout

/-- Edges of the serial clock leave the timer and its request (R434). -/
theorem serialEdges_timer (edges : List Bool) (s : State) :
    (serialEdges edges s).timer = s.timer ∧ (serialEdges edges s).req.tm = s.req.tm := by
  have hf : ∀ u : State, (serialFall u).timer = u.timer ∧ (serialFall u).req.tm = u.req.tm := by
    intro u
    unfold serialFall
    split <;> exact ⟨rfl, rfl⟩
  have hr : ∀ u : State, (serialRise u).timer = u.timer ∧ (serialRise u).req.tm = u.req.tm := by
    intro u
    unfold serialRise
    split
    · dsimp only; split <;> exact ⟨rfl, rfl⟩
    · exact ⟨rfl, rfl⟩
  unfold serialEdges
  induction edges generalizing s with
  | nil => exact ⟨rfl, rfl⟩
  | cons b rest ih =>
    cases b <;> simp only [List.foldl_cons, Bool.false_eq_true, if_false, if_true]
    · exact ⟨(ih _).1.trans (hf s).1, (ih _).2.trans (hf s).2⟩
    · exact ⟨(ih _).1.trans (hr s).1, (ih _).2.trans (hr s).2⟩

/-- Levels of P0D leave the timer and its request (R440). -/
theorem dLevels_timer (levels : List Nibble) (s : State) :
    (levels.foldl dLevel s).timer = s.timer ∧ (levels.foldl dLevel s).req.tm = s.req.tm := by
  induction levels generalizing s with
  | nil => exact ⟨rfl, rfl⟩
  | cons v rest ih =>
    have hd : (dLevel s v).timer = s.timer ∧ (dLevel s v).req.tm = s.req.tm := by
      unfold dLevel
      dsimp only
      split
      · exact serialEdges_timer _ _
      · exact ⟨rfl, rfl⟩
    exact ⟨(ih _).1.trans hd.1, (ih _).2.trans hd.2⟩

/-- INT levels that are not counted leave the timer and its request (R363). -/
theorem intLevels_uncounted (levels : List Bool) (s : State) :
    (intLevels false false levels s).timer = s.timer ∧ (intLevels false false levels s).req.tm = s.req.tm := by
  induction levels generalizing s with
  | nil => exact ⟨rfl, rfl⟩
  | cons b rest ih => exact ih (intEdge b s)

/-- Nothing counts without a system clock (R363). -/
theorem stoppedDevices_timer (h : HostSlot) (s : State) :
    (stoppedDevices h s).timer = s.timer ∧ (stoppedDevices h s).req.tm = s.req.tm := by
  unfold stoppedDevices
  exact ⟨(dLevels_timer _ _).1.trans (intLevels_uncounted _ _).1, (dLevels_timer _ _).2.trans (intLevels_uncounted _ _).2⟩

/-- A count pulse in a wait holds the count before the match (R365, R463). -/
theorem timerPulse_wait {s : State} {kind : WaitKind} {left : Nat} (h : s.mode = .wait kind left) :
    NoMatch s (timerPulse s) := by
  unfold timerPulse
  rw [h]
  dsimp only
  unfold waitPulse
  split <;> exact ⟨rfl, rfl⟩

/-- INT levels in a wait do not match (R365, R463). -/
theorem intLevels_wait {s : State} {kind : WaitKind} {left : Nat} (h : s.mode = .wait kind left) (counting single : Bool)
    (levels : List Bool) : NoMatch s (intLevels counting single levels s) := by
  induction levels generalizing s counting with
  | nil => exact ⟨rfl, rfl⟩
  | cons b rest ih =>
    unfold intLevels
    split
    · have hp : NoMatch (intEdge b s) (timerPulse (intEdge b s)) := timerPulse_wait (s := intEdge b s) h
      have hm : (timerPulse (intEdge b s)).mode = .wait kind left := by rw [(timerPulse_devices _).1]; exact h
      exact ⟨(ih hm _).1.trans hp.1, (ih hm _).2.trans hp.2⟩
    · exact ⟨(ih (s := intEdge b s) h _).1, (ih (s := intEdge b s) h _).2⟩

/-- A slot of a wait moves devices without a match: the end of the wait carries it out (R365, R463). -/
theorem slotDevices_wait {s : State} {kind : WaitKind} {left : Nat} (h : s.mode = .wait kind left)
    (single comparing : Bool) (hs : HostSlot) : NoMatch s (slotDevices single comparing hs s) := by
  unfold slotDevices
  rw [h]
  dsimp only
  unfold clockedDevices serialSlot
  dsimp only
  have hi := intLevels_wait (s := sampleLevels hs s) h true single hs.intLevels
  have hm : (intLevels true single hs.intLevels (sampleLevels hs s)).mode = .wait kind left := by
    rw [(intLevels_devices _ _ _ _).1]; exact h
  generalize intLevels true single hs.intLevels (sampleLevels hs s) = u at hi hm
  have ht : NoMatch u (timerSlot u) := by
    unfold timerSlot
    dsimp only
    split
    · exact timerPulse_wait (s := { u with timer := { u.timer with presc := u.timer.presc + 16 } }) hm
    · exact ⟨rfl, rfl⟩
  refine ⟨(serialEdges_timer _ _).2.trans ?_, ?_⟩
  · exact ((dLevels_timer _ _).2.trans ht.1).trans hi.1
  · rw [(serialEdges_timer _ _).1]
    show (hs.dLevels.foldl dLevel (timerSlot u)).timer.tmout = _
    rw [(dLevels_timer _ _).1]
    exact ht.2.trans hi.2

/-- The pins of a slot of a reset settle, and nothing else changes (R88, R461). -/
theorem settlePins_settled (h : HostSlot) (s : State) : PinsSettled h s (settlePins h s) :=
  ⟨rfl, rfl, rfl, rfl, rfl, rfl, rfl, rfl, rfl⟩

end Sys2Proof.Machine
end

