-- ==== Sys2Proof/Laws/PerInstr.lean ====
section
/-! SUPPORT. Laws made once for each instruction: the encoding of an ill-formed instruction is refused by name. -/
namespace Sys2Proof.Laws.IllFormedRefused

/-- An instruction that is not well formed encodes to a word the decoder refuses as a branch operand with bit 10 set
(R157 (d), R163). -/
def Statement (i : Instr) : Prop := i.wellFormed = false → decode (encode i) = .error .branchOperandBit10

/-- A well-formed instruction meets the statement. -/
theorem of_wellFormed {i : Instr} (h : i.wellFormed = true) : Statement i := fun h' => by rw [h] at h'; cases h'

/-- Every ADD of this form is well formed. -/
theorem addRM (r : RegNum) (m : DataAddr) : Statement (.addRM r m) := of_wellFormed rfl

/-- Every ADD of this form is well formed. -/
theorem addMI (m : DataAddr) (n4 : Nibble) : Statement (.addMI m n4) := of_wellFormed rfl

/-- Every ADDC of this form is well formed. -/
theorem addcRM (r : RegNum) (m : DataAddr) : Statement (.addcRM r m) := of_wellFormed rfl

/-- Every ADDC of this form is well formed. -/
theorem addcMI (m : DataAddr) (n4 : Nibble) : Statement (.addcMI m n4) := of_wellFormed rfl

/-- Every INC of this form is well formed. -/
theorem incAR : Statement .incAR := of_wellFormed rfl

/-- Every INC of this form is well formed. -/
theorem incIX : Statement .incIX := of_wellFormed rfl

/-- Every SUB of this form is well formed. -/
theorem subRM (r : RegNum) (m : DataAddr) : Statement (.subRM r m) := of_wellFormed rfl

/-- Every SUB of this form is well formed. -/
theorem subMI (m : DataAddr) (n4 : Nibble) : Statement (.subMI m n4) := of_wellFormed rfl

/-- Every SUBC of this form is well formed. -/
theorem subcRM (r : RegNum) (m : DataAddr) : Statement (.subcRM r m) := of_wellFormed rfl

/-- Every SUBC of this form is well formed. -/
theorem subcMI (m : DataAddr) (n4 : Nibble) : Statement (.subcMI m n4) := of_wellFormed rfl

/-- Every OR of this form is well formed. -/
theorem orRM (r : RegNum) (m : DataAddr) : Statement (.orRM r m) := of_wellFormed rfl

/-- Every OR of this form is well formed. -/
theorem orMI (m : DataAddr) (n4 : Nibble) : Statement (.orMI m n4) := of_wellFormed rfl

/-- Every AND of this form is well formed. -/
theorem andRM (r : RegNum) (m : DataAddr) : Statement (.andRM r m) := of_wellFormed rfl

/-- Every AND of this form is well formed. -/
theorem andMI (m : DataAddr) (n4 : Nibble) : Statement (.andMI m n4) := of_wellFormed rfl

/-- Every XOR of this form is well formed. -/
theorem xorRM (r : RegNum) (m : DataAddr) : Statement (.xorRM r m) := of_wellFormed rfl

/-- Every XOR of this form is well formed. -/
theorem xorMI (m : DataAddr) (n4 : Nibble) : Statement (.xorMI m n4) := of_wellFormed rfl

/-- Every SKT of this form is well formed. -/
theorem skt (m : DataAddr) (n : Nibble) : Statement (.skt m n) := of_wellFormed rfl

/-- Every SKF of this form is well formed. -/
theorem skf (m : DataAddr) (n : Nibble) : Statement (.skf m n) := of_wellFormed rfl

/-- Every SKE of this form is well formed. -/
theorem ske (m : DataAddr) (n4 : Nibble) : Statement (.ske m n4) := of_wellFormed rfl

/-- Every SKNE of this form is well formed. -/
theorem skne (m : DataAddr) (n4 : Nibble) : Statement (.skne m n4) := of_wellFormed rfl

/-- Every SKGE of this form is well formed. -/
theorem skge (m : DataAddr) (n4 : Nibble) : Statement (.skge m n4) := of_wellFormed rfl

/-- Every SKLT of this form is well formed. -/
theorem sklt (m : DataAddr) (n4 : Nibble) : Statement (.sklt m n4) := of_wellFormed rfl

/-- Every RORC of this form is well formed. -/
theorem rorc (r : RegNum) : Statement (.rorc r) := of_wellFormed rfl

/-- Every LD of this form is well formed. -/
theorem ld (r : RegNum) (m : DataAddr) : Statement (.ld r m) := of_wellFormed rfl

/-- Every ST of this form is well formed. -/
theorem st (m : DataAddr) (r : RegNum) : Statement (.st m r) := of_wellFormed rfl

/-- Every MOV of this form is well formed. -/
theorem movIndM (r : RegNum) (m : DataAddr) : Statement (.movIndM r m) := of_wellFormed rfl

/-- Every MOV of this form is well formed. -/
theorem movMInd (m : DataAddr) (r : RegNum) : Statement (.movMInd m r) := of_wellFormed rfl

/-- Every MOV of this form is well formed. -/
theorem movMI (m : DataAddr) (n4 : Nibble) : Statement (.movMI m n4) := of_wellFormed rfl

/-- Every MOVT of this form is well formed. -/
theorem movt : Statement .movt := of_wellFormed rfl

/-- Every PUSH of this form is well formed. -/
theorem pushAR : Statement .pushAR := of_wellFormed rfl

/-- Every POP of this form is well formed. -/
theorem popAR : Statement .popAR := of_wellFormed rfl

/-- Every PEEK of this form is well formed. -/
theorem peek (rf : DataAddr) : Statement (.peek rf) := of_wellFormed rfl

/-- Every POKE of this form is well formed. -/
theorem poke (rf : DataAddr) : Statement (.poke rf) := of_wellFormed rfl

/-- Every GET of this form is well formed. -/
theorem get (p : DataAddr) : Statement (.get p) := of_wellFormed rfl

/-- Every PUT of this form is well formed. -/
theorem put (p : DataAddr) : Statement (.put p) := of_wellFormed rfl

/-- BR with operand bit 10 set is refused. -/
theorem br (addr : BranchOperand) : Statement (.br addr) := by
  intro h
  have hb : addr.getLsbD 10 = true := by simpa [Instr.wellFormed] using h
  simp [encode, decode, decodeAD, hb, -BitVec.getLsbD_eq_getElem]

/-- Every BR of this form is well formed. -/
theorem brAR : Statement .brAR := of_wellFormed rfl

/-- CALL with operand bit 10 set is refused. -/
theorem call (addr : BranchOperand) : Statement (.call addr) := by
  intro h
  have hb : addr.getLsbD 10 = true := by simpa [Instr.wellFormed] using h
  simp [encode, decode, decodeAD, hb, -BitVec.getLsbD_eq_getElem]

/-- Every CALL of this form is well formed. -/
theorem callAR : Statement .callAR := of_wellFormed rfl

/-- Every RET of this form is well formed. -/
theorem ret : Statement .ret := of_wellFormed rfl

/-- Every RETSK of this form is well formed. -/
theorem retsk : Statement .retsk := of_wellFormed rfl

/-- Every RETI of this form is well formed. -/
theorem reti : Statement .reti := of_wellFormed rfl

/-- Every EI of this form is well formed. -/
theorem ei : Statement .ei := of_wellFormed rfl

/-- Every DI of this form is well formed. -/
theorem di : Statement .di := of_wellFormed rfl

/-- Every STOP of this form is well formed. -/
theorem stop (s : Nibble) : Statement (.stop s) := of_wellFormed rfl

/-- Every HALT of this form is well formed. -/
theorem halt (h : Nibble) : Statement (.halt h) := of_wellFormed rfl

/-- Every NOP of this form is well formed. -/
theorem nop : Statement .nop := of_wellFormed rfl

end Sys2Proof.Laws.IllFormedRefused
end

