-- ==== Sys2Proof/Tests/Slice0.lean ====
section
/-! SUPPORT. Tests of the model: ill-formed terms, decoding words written out from the encoding (R152), one-step examples
of the spec, and for each statement with hypotheses a state that meets them. -/
namespace Sys2Proof.Tests
open Sys2Proof.Machine

/-! ## Well-formedness (R157 (d), R163) -/

theorem test_wf_br_bit10 : (Instr.br 0x400).wellFormed = false := by decide
theorem test_wf_call_bit10 : (Instr.call 0x7FF).wellFormed = false := by decide
theorem test_wf_br_last : (Instr.br 0x3FF).wellFormed = true := by decide

/-! ## Decoding: each word bit by bit from R152, operands from the worked examples of 40 to 50 -/

theorem test_decode_addition :
    decode 0b00000_010_1111_0011 = .ok (.addRM 0x3 0x2F) ∧
    decode 0b10000_010_1111_0101 = .ok (.addMI 0x2F 0x5) ∧
    decode 0b00010_010_1110_1110 = .ok (.addcRM 0xE 0x2E) ∧
    decode 0b10010_000_1110_0000 = .ok (.addcMI 0x0E 0x0) ∧
    decode 0b00111_000_1001_0000 = .ok .incAR ∧
    decode 0b00111_000_1000_0000 = .ok .incIX := by decide

theorem test_decode_subtraction :
    decode 0b00001_010_1111_0011 = .ok (.subRM 0x3 0x2F) ∧
    decode 0b10001_010_1111_0101 = .ok (.subMI 0x2F 0x5) ∧
    decode 0b00011_010_1110_1110 = .ok (.subcRM 0xE 0x2E) ∧
    decode 0b10011_000_1110_0000 = .ok (.subcMI 0x0E 0x0) := by decide

theorem test_decode_logical :
    decode 0b00110_010_1111_0011 = .ok (.orRM 0x3 0x2F) ∧
    decode 0b10110_000_0011_1000 = .ok (.orMI 0x03 0x8) ∧
    decode 0b00100_010_1111_0011 = .ok (.andRM 0x3 0x2F) ∧
    decode 0b10100_000_0011_0111 = .ok (.andMI 0x03 0x7) ∧
    decode 0b00101_000_1111_0011 = .ok (.xorRM 0x3 0x0F) ∧
    decode 0b10101_000_0011_1010 = .ok (.xorMI 0x03 0xA) := by decide

theorem test_decode_skips :
    decode 0b11110_000_0011_0001 = .ok (.skt 0x03 0x1) ∧
    decode 0b11111_001_0011_0100 = .ok (.skf 0x13 0x4) ∧
    decode 0b01001_010_0100_0000 = .ok (.ske 0x24 0x0) ∧
    decode 0b01011_001_1111_0001 = .ok (.skne 0x1F 0x1) ∧
    decode 0b11001_001_1111_0001 = .ok (.skge 0x1F 0x1) ∧
    decode 0b11011_001_0000_0110 = .ok (.sklt 0x10 0x6) := by decide

theorem test_decode_rotation :
    decode 0b00111_000_0111_0000 = .ok (.rorc 0x0) := by decide

theorem test_decode_transfer :
    decode 0b01000_010_1111_0011 = .ok (.ld 0x3 0x2F) ∧
    decode 0b11000_010_1111_0011 = .ok (.st 0x2F 0x3) ∧
    decode 0b01010_010_0000_0000 = .ok (.movIndM 0x0 0x20) ∧
    decode 0b11010_010_0000_0000 = .ok (.movMInd 0x20 0x0) ∧
    decode 0b11101_101_0000_1010 = .ok (.movMI 0x50 0xA) ∧
    decode 0b00111_000_0001_0000 = .ok .movt ∧
    decode 0b00111_000_1101_0000 = .ok .pushAR ∧
    decode 0b00111_000_1100_0000 = .ok .popAR ∧
    decode 0b00111_000_0011_0001 = .ok (.peek 0x01) ∧
    decode 0b00111_011_0010_0011 = .ok (.poke 0x33) ∧
    decode 0b00111_000_1011_0001 = .ok (.get 0x01) ∧
    decode 0b00111_100_1010_0000 = .ok (.put 0x40) := by decide

theorem test_decode_branch :
    decode 0b01100_000_0000_1111 = .ok (.br 0x00F) ∧
    decode 0b00111_000_0100_0000 = .ok .brAR := by decide

theorem test_decode_subroutine :
    decode 0b11100_001_0010_0000 = .ok (.call 0x120) ∧
    decode 0b00111_000_0101_0000 = .ok .callAR ∧
    decode 0b00111_000_1110_0000 = .ok .ret ∧
    decode 0b00111_001_1110_0000 = .ok .retsk ∧
    decode 0b00111_100_1110_0000 = .ok .reti := by decide

theorem test_decode_control :
    decode 0b00111_000_1111_0000 = .ok .ei ∧
    decode 0b00111_001_1111_0000 = .ok .di ∧
    decode 0b00111_010_1111_1000 = .ok (.stop 0x8) ∧
    decode 0b00111_011_1111_1000 = .ok (.halt 0x8) ∧
    decode 0b00111_100_1111_0000 = .ok .nop := by decide

theorem test_decode_undefined :
    decode 0x6800 = .error .unassignedOpcode ∧ decode 0x3800 = .error .unassignedSubOpcode ∧
    decode 0x3811 = .error .fixedFieldMismatch ∧ decode 0x6400 = .error .branchOperandBit10 := by decide

theorem test_table_word : decodeTableWord 16 0x3CF0 = some .nop ∧ decodeTableWord 16 0x3800 = none := by decide

/-! ## One instruction, on small states -/

/-- A property of the next state; false where there is none. -/
def after (o : Answer State) (p : State → Bool) : Bool :=
  match o with
  | .next t => p t
  | _ => false

/-- Reset with nibbles in data memory. -/
def withRam (cells : List (Nat × Nibble)) : State :=
  { State.reset with ram := cells.foldl (fun acc c => ramWrite c.1 c.2 acc) [] }

/-- The state with the flags BCD, CMP, CY, Z, IXE. -/
def flags (v : BitVec 5) (s : State) : State := { s with psw := Psword.ofBits v }

/-- What the nibble at an address, CY and Z are. -/
def shows (a : Nat) (v : Nibble) (cy z : Bool) (t : State) : Bool :=
  ramRead t.ram a == v && t.psw.cy == cy && t.psw.z == z

-- R200: 9 + 8
theorem test_addRM : after (exec (.addRM 3 0x2F) (withRam [(3, 9), (0x2F, 8)])) (shows 3 1 true false) := by decide
-- R201, R194 (a): a carry into PSW is lost to the stored nibble
theorem test_addMI : after (exec (.addMI 0x2F 5) (withRam [(0x2F, 0xB)])) (shows 0x2F 0 true true) := by decide
theorem test_addMI_psw : after (exec (.addMI 0x7F 0xF) (flags 0b00001 State.reset)) (fun t => t.psw == .clear) := by decide
-- R204: rotation to the left
theorem test_addcRM : after (exec (.addcRM 3 3) (withRam [(3, 2)])) (shows 3 4 false false) := by decide
-- R203: 0FH + 0 + CY
theorem test_addcMI : after (exec (.addcMI 0x0E 0) (flags 0b00100 (withRam [(0x0E, 0xF)]))) (shows 0x0E 0 true true) := by
  decide
-- R197, R195: 5 + 5 in BCD
theorem test_addMI_bcd : after (exec (.addMI 3 5) (flags 0b10000 (withRam [(3, 5)]))) (shows 3 0 true true) := by decide
-- R206, R207: the wraps
theorem test_incAR : after (exec .incAR { State.reset with ar := 0x3FF }) (fun t => t.ar == 0) := by decide
theorem test_incIX : after (exec .incIX { State.reset with ix := 0x7F, mpe := true }) (fun t => t.ix == 0 && t.mpe) := by
  decide
-- R220: 3 - 5
theorem test_subRM : after (exec (.subRM 3 0x2F) (withRam [(3, 3), (0x2F, 5)])) (shows 3 0xE true false) := by decide
-- R221, R226: 5 - 5; with CMP = 1 nothing is stored and Z is kept
theorem test_subMI : after (exec (.subMI 0x2F 5) (withRam [(0x2F, 5)])) (shows 0x2F 0 false true) := by decide
theorem test_subMI_cmp : after (exec (.subMI 3 5) (flags 0b01000 (withRam [(3, 5)]))) (shows 3 5 false false) := by decide
-- R222: 0 - 0FH - 1
theorem test_subcRM : after (exec (.subcRM 3 4) (flags 0b00100 (withRam [(4, 0xF)]))) (shows 3 0 true true) := by decide
-- R223: 0 - 0 - 1
theorem test_subcMI : after (exec (.subcMI 0x0E 0) (flags 0b00100 State.reset)) (shows 0x0E 0xF true false) := by decide
-- R230 to R235
theorem test_orRM : after (exec (.orRM 3 0x2F) (withRam [(3, 0xA), (0x2F, 7)])) (shows 3 0xF false false) := by decide
theorem test_orMI : after (exec (.orMI 3 8) (withRam [(3, 2)])) (shows 3 0xA false false) := by decide
theorem test_andRM : after (exec (.andRM 3 0x2F) (withRam [(3, 0xA), (0x2F, 6)])) (shows 3 2 false false) := by decide
theorem test_andMI : after (exec (.andMI 3 7) (withRam [(3, 0xA)])) (shows 3 2 false false) := by decide
theorem test_xorRM : after (exec (.xorRM 3 0x0F) (withRam [(3, 0xA), (0x0F, 9)])) (shows 3 3 false false) := by decide
theorem test_xorMI : after (exec (.xorMI 3 0xA) (withRam [(3, 6)])) (shows 3 0xC false false) := by decide
-- R241, R242 (section 11.5.1): the skip, and CMP reset
theorem test_skt : after (exec (.skt 3 0xB) (flags 0b01000 (withRam [(3, 0xB)]))) (fun t => t.skipNext && !t.psw.cmp) := by
  decide
theorem test_skt_not : after (exec (.skt 3 0xD) (withRam [(3, 0xB)])) (fun t => !t.skipNext) := by decide
theorem test_skf : after (exec (.skf 0x29 9) (withRam [(0x29, 6)])) (fun t => t.skipNext) := by decide
theorem test_skf_not : after (exec (.skf 3 0xD) (withRam [(3, 0xB)])) (fun t => !t.skipNext) := by decide
-- R246 to R249 (section 11.6)
theorem test_ske : after (exec (.ske 3 0xA) (withRam [(3, 0xA)])) (fun t => t.skipNext) := by decide
theorem test_skne : after (exec (.skne 3 0xA) (withRam [(3, 0xA)])) (fun t => !t.skipNext) := by decide
theorem test_skge : after (exec (.skge 3 8) (withRam [(3, 8)])) (fun t => t.skipNext) := by decide
theorem test_sklt : after (exec (.sklt 3 8) (withRam [(3, 8)])) (fun t => !t.skipNext) := by decide
-- R255 (section 11.7.1)
theorem test_rorc : after (exec (.rorc 1) (flags 0b00100 (withRam [(1, 0xC)]))) (shows 1 0xE false false) := by decide
-- R260, R116: IX = 40H ORed into 0FH
theorem test_ld : after (exec (.ld 3 0x2F) (withRam [(0x2F, 7)])) (shows 3 7 false false) := by decide
theorem test_ld_ix : after (exec (.ld 3 0x0F) { flags 0b00001 (withRam [(0x4F, 7)]) with ix := 0x40 })
    (shows 3 7 false false) := by decide
-- R261, R262, R263, R264
theorem test_st : after (exec (.st 0x2F 3) (withRam [(3, 7)])) (shows 0x2F 7 false false) := by decide
theorem test_movIndM : after (exec (.movIndM 0 0x20) (withRam [(0, 0xF), (0x20, 7)])) (shows 0x2F 7 false false) := by
  decide
theorem test_movIndM_mp : after (exec (.movIndM 0 0x20) { withRam [(0, 0xF), (0x20, 7)] with mpe := true, ix := 0x30 })
    (shows 0x3F 7 false false) := by decide
theorem test_movMInd : after (exec (.movMInd 0x20 0) (withRam [(0, 0xF), (0x2F, 7)])) (shows 0x20 7 false false) := by
  decide
theorem test_movMI : after (exec (.movMI 0x50 0xA) State.reset) (shows 0x50 0xA false false) := by decide
theorem test_movMI_fixed : after (exec (.movMI 0x7A 0xF) State.reset) (fun t => t.mpe && t.ix == 0) := by decide
-- R270
theorem test_movt : after (exec .movt { State.reset with ar := 0x11, pc := 0x21, rom := [(0x11, 0xABCD)] })
    (fun t => dbfRead t == 0xABCD && t.pc == 0x21 && t.sp == 5 && asrRead t 4 == 0x21) := by decide
-- R272, R273
theorem test_pushAR : after (exec .pushAR { State.reset with ar := 0x3F }) (fun t => t.sp == 4 && asrRead t 4 == 0x3F) := by
  decide
theorem test_popAR : after (exec .popAR { State.reset with sp := 4, asr := #v[0, 0, 0, 0, 0x3F] })
    (fun t => t.sp == 5 && t.ar == 0x3F) := by decide
theorem test_popAR_empty : after (exec .popAR { State.reset with pc := 9, ar := 9 }) (fun t => t.pc == 0 && t.ar == 0) := by
  decide
-- R275, R276
theorem test_peek : after (exec (.peek 0x01) State.reset) (fun t => t.wr == 5) := by decide
theorem test_poke : after (exec (.poke 0x33) { State.reset with wr := 0xF }) (fun t => t.ports.dbio == 0xF) := by decide
theorem test_poke_psw : after (exec (.poke 0x7F) { State.reset with wr := 0xA }) (fun t => t.psw.cmp && t.psw.z) := by
  decide
-- R281: SIOSFR = A5H; R282: AR takes ten bits
theorem test_get : after (exec (.get 0x01) { State.reset with serial := { State.reset.serial with siosfr := 0xA5 } })
    (fun t => dbfRead t == 0x00A5) := by decide
theorem test_put : after (exec (.put 0x40) (withRam [(0x0C, 0xF), (0x0D, 0xF), (0x0E, 0xF), (0x0F, 0xF)]))
    (fun t => t.ar == 0x3FF) := by decide
-- R290, R291
theorem test_br : after (exec (.br 0x0F) State.reset) (fun t => t.pc == 0x0F) := by decide
theorem test_brAR : after (exec .brAR { State.reset with ar := 0x3F }) (fun t => t.pc == 0x3F) := by decide
-- R295: CALL 0120H at 0010H
theorem test_call : after (exec (.call 0x120) { State.reset with pc := 0x11 })
    (fun t => t.pc == 0x120 && t.sp == 4 && asrRead t 4 == 0x11) := by decide
theorem test_call_full : after (exec (.call 0x120) { State.reset with pc := 0x11, sp := 0 })
    (fun t => t.pc == 0 && t.sp == 5) := by decide
theorem test_callAR : after (exec .callAR { State.reset with pc := 0x11, ar := 0x20 })
    (fun t => t.pc == 0x20 && t.sp == 4 && asrRead t 4 == 0x11) := by decide
-- R297 to R299
theorem test_ret : after (exec .ret { State.reset with sp := 4, asr := #v[0, 0, 0, 0, 0x11] })
    (fun t => t.pc == 0x11 && t.sp == 5) := by decide
theorem test_retsk : after (exec .retsk { State.reset with sp := 4, asr := #v[0, 0, 0, 0, 0x11] })
    (fun t => t.pc == 0x11 && t.skipNext) := by decide
theorem test_reti : after (exec .reti { State.reset with sp := 4, asr := #v[0, 0, 0, 0, 0x123], intsk := .ofBits 0b10110 })
    (fun t => t.pc == 0x123 && t.sp == 5 && t.psw == ⟨true, false, true, true, false⟩) := by decide
-- R305, R306, R310, R311, R312
theorem test_ei : after (exec .ei State.reset) (fun t => t.eiDelay == 2 && !t.inte) := by decide
theorem test_di : after (exec .di { State.reset with inte := true }) (fun t => !t.inte) := by decide
theorem test_stop : after (exec (.stop 8) State.reset) (fun t => t.mode == .stop 8 && !t.req.tm) := by decide
theorem test_halt : after (exec (.halt 8) State.reset) (fun t => t.mode == .halt 8) := by decide
theorem test_halt_released : after (exec (.halt 2) State.reset) (fun t => t.mode == .run) := by decide
theorem test_nop : after (exec .nop State.reset) (fun t => t == State.reset) := by decide

/-! ## One step -/

/-- Reset with one word placed at pc. -/
def placed (w : Nat) : State := State.reset.withFetchWord 16 w

-- R491: the word placed at pc runs first, and pc is past it
theorem test_step_mov : after (step (placed 0xED0A)) (fun t => ramRead t.ram 0x50 == 0xA && t.pc == 1) := by decide
-- R24: a skipped word has no effect
theorem test_step_skip : after (step { placed 0xED0A with skipNext := true })
    (fun t => ramRead t.ram 0x50 == 0 && t.pc == 1 && !t.skipNext) := by decide
-- R338: the timer request pending after reset (R333)
theorem test_step_interrupt : after (step { placed 0x3CF0 with inte := true, en := ⟨false, true, false⟩, pc := 0x12 })
    (fun t => t.pc == 2 && t.sp == 4 && asrRead t 4 == 0x12 && !t.inte && !t.req.tm) := by decide
-- R157
theorem test_step_undefined : step (placed 0x3800) = .refused .undefinedEncoding := by rfl
-- R463: RESET falls
theorem test_step_reset : after (step { placed 0x3CF0 with pc := 9, inputs := [⟨[false, true], none, [], [], none, none, none,
    none, none, false⟩] }) (fun t => t.pc == 0 && t.mode == .wait .afterReset 4096) := by decide

/-! ## States and operands that meet the hypotheses of each statement -/

/-- Host events of one slot: these RESET levels and nothing else. -/
def resetSlot (levels : List Bool) : HostSlot := ⟨levels, none, [], [], none, none, none, none, none, false⟩

/-- NOP at pc, in a mode. -/
def inMode (m : Mode) : State := { placed 0x3CF0 with mode := m }

/-- The timer request accepted at the next boundary, with a stack pointer. -/
def requested (sp : BitVec 3) : State :=
  { placed 0x3CF0 with inte := true, en := ⟨false, true, false⟩, sp := sp }

/-- Reset with a stack pointer. -/
def withSp (sp : BitVec 3) : State := { State.reset with sp := sp }

/-- Reset with IXE and MPE. -/
def indexed (ixe mpe : Bool) : State := { State.reset with psw := { Psword.clear with ixe := ixe }, mpe := mpe }

/-- Reset with WR. -/
def withWr (w : Nibble) : State := { State.reset with wr := w }

/-- A transfer with the external clock, SCK high. -/
def transferring : State :=
  { State.reset with serial := { State.reset.serial with sioen := true, siots := true, sckPrev := true } }

/-- A transfer with an internal clock, past its first falling edge, after some shifts. -/
def clocked (siock : BitVec 2) (count : BitVec 3) : State :=
  { State.reset with serial := { transferring.serial with armed := true, siock := siock, count := count } }

/-- The timer counting with a count clock. -/
def counting (tmck : BitVec 2) : State := { State.reset with timer := { State.reset.timer with tmck := tmck } }

/-- The timer stopped. -/
def stopped : State := { State.reset with timer := { State.reset.timer with tmen := false } }

/-- A comparison in its first slot. -/
def comparingNow : State := { State.reset with comparator := { State.reset.comparator with strt := true, busy := 2 } }

theorem witness_DecodeEncode :
    (Instr.skf 0x7F 0xF).wellFormed = true ∧ (Instr.br 0x3FF).wellFormed = true ∧ Instr.nop.wellFormed = true := by decide

theorem witness_EncodeDecode :
    decode 0xFFFF = .ok (.skf 0x7F 0xF) ∧ decode 0x0000 = .ok (.addRM 0 0) := by decide

theorem witness_StepKeepsInvariant : Inv (placed 0x3CF0) ∧ ∃ t, step (placed 0x3CF0) = .next t :=
  ⟨⟨by decide, by decide, by decide, by decide, by decide, by decide, by decide, by decide, by decide, by decide,
    by decide⟩, _, rfl⟩

theorem witness_PinReset :
    (∀ m ∈ [Mode.run, .halt 8, .stop 8, .stop 0, .wait .afterStop 1],
      ResetComes { inMode m with inputs := [resetSlot [false, true]] }) ∧
    ResetComes { inMode .run with inputs := [{ resetSlot [] with power := some .powerOn }] } ∧
    ResetComes { inMode (.halt 8) with pdresen := true, inputs := [{ resetSlot [] with power := some .powerDown }] } ∧
    (let s := { inMode .run with inputs := [{ resetSlot [] with power := some .powerDown }] }
     ¬ ResetComes s ∧ EndsHigh s) ∧
    (let s := { inMode .run with pins := { State.reset.pins with reset := false } }
     ¬ ResetComes s ∧ ¬ EndsHigh s) := by
  simp only [ResetComes, EndsHigh]; decide

theorem witness_StackFaultReplaces :
    (Instr.call 0x3FF).wellFormed = true ∧
    [Instr.call 0x3FF, .callAR, .pushAR, .movt].all (fun i =>
      raisesStackFault i (withSp 0) && raisesStackFault i (withSp 6) && !raisesStackFault i (withSp 1)) = true ∧
    [Instr.ret, .retsk, .reti, .popAR].all (fun i =>
      raisesStackFault i (withSp 5) && raisesStackFault i (withSp 7) && !raisesStackFault i (withSp 4)) = true ∧
    raisesStackFault (.poke 0x01) (withWr 6) = true ∧ raisesStackFault (.poke 0x01) (withWr 7) = true := by decide

theorem witness_StepRunsDecoded :
    (NoReset (placed 0x3CF0) ∧ NoAccept (placed 0x3CF0) ∧ (placed 0x3CF0).mode = .run ∧
      (placed 0x3CF0).skipNext = false ∧ decode (romRead (placed 0x3CF0) (placed 0x3CF0).pc) = .ok .nop) ∧
    (NoReset (placed 0x3800) ∧ NoAccept (placed 0x3800) ∧ (placed 0x3800).mode = .run ∧
      (placed 0x3800).skipNext = false ∧
      decode (romRead (placed 0x3800) (placed 0x3800).pc) = .error .unassignedSubOpcode) :=
  ⟨⟨by rfl, .inl rfl, rfl, rfl, rfl⟩, by rfl, .inl rfl, rfl, rfl, rfl⟩

theorem witness_SlotEndMovesDevices :
    (raisesStackFault .nop State.reset = false ∧ Instr.nop ≠ .movt) ∧
    (raisesStackFault (.call 0) State.reset = false ∧ Instr.call 0 ≠ .movt) ∧
    raisesStackFault (.call 0) (withSp 0) = true ∧ raisesStackFault .movt (withSp 0) = true ∧
    raisesStackFault .movt (withSp 1) = false ∧
    (raisesStackFault (.get 0x02) State.reset = false ∧ Instr.get 0x02 ≠ .movt ∧ (tickEi State.reset).mode = .run) ∧
    (raisesStackFault (.halt 8) State.reset = false ∧ (tickEi (enterHalt 8 State.reset)).mode = .halt 8) ∧
    (raisesStackFault (.stop 8) State.reset = false ∧ (tickEi (enterStop 8 State.reset)).mode = .stop 8) ∧
    NoReset (closeSlot false false quietSlot State.reset) ∧
    ¬ NoReset (closeSlot false false quietSlot { State.reset with inputs := [resetSlot [false, true]] }) := by
  simp only [NoReset]; decide

theorem witness_StepSkips :
    let s := { placed 0x3800 with skipNext := true }
    NoReset s ∧ s.mode = .run ∧ s.skipNext = true :=
  ⟨by rfl, rfl, rfl⟩

theorem witness_StepAcceptsInterrupt :
    (∀ sp ∈ [1#3, 5], NoReset (requested sp) ∧ pendingSource (requested sp) = some .tm ∧ HasFreeLevel (requested sp)) ∧
    (∀ sp ∈ [0#3, 6], NoReset (requested sp) ∧ pendingSource (requested sp) = some .tm ∧
      ¬ HasFreeLevel (requested sp)) ∧
    (requested 1).mode = .run ∧ (requested 1).inte = true ∧ (requested 1).eiDelay = 0 ∧
      (requested 1).skipNext = false := by
  simp only [NoReset, HasFreeLevel]
  decide

theorem witness_InterruptPriority :
    let s : State := { State.reset with req := ⟨true, true, true⟩, en := ⟨true, true, true⟩ }
    let t : State := { s with en := ⟨true, true, false⟩ }
    let u : State := { s with req := ⟨true, true, false⟩, en := ⟨true, false, true⟩ }
    (s.req.pin = true ∧ s.en.pin = true) ∧
    (¬ (t.req.pin = true ∧ t.en.pin = true) ∧ t.req.tm = true ∧ t.en.tm = true) ∧
    (¬ (u.req.pin = true ∧ u.en.pin = true) ∧ ¬ (u.req.tm = true ∧ u.en.tm = true) ∧ u.req.sio = true ∧
      u.en.sio = true) ∧
    (¬ (State.reset.req.pin = true ∧ State.reset.en.pin = true) ∧
      ¬ (State.reset.req.tm = true ∧ State.reset.en.tm = true) ∧
      ¬ (State.reset.req.sio = true ∧ State.reset.en.sio = true)) := by decide

theorem witness_RetiUndoesAcceptance : HasFreeLevel (withSp 1) ∧ HasFreeLevel (withSp 5) := by
  simp only [HasFreeLevel]; decide

theorem witness_HaltStep :
    (NoReset (inMode (.halt 8)) ∧ (inMode (.halt 8)).mode = .halt 8 ∧
      haltRelease 8 (inMode (.halt 8)).req (inMode (.halt 8)) = false) ∧
    (NoReset (inMode (.halt 2)) ∧ (inMode (.halt 2)).mode = .halt 2 ∧
      haltRelease 2 (inMode (.halt 2)).req (inMode (.halt 2)) = true) :=
  ⟨⟨by rfl, rfl, rfl⟩, by rfl, rfl, rfl⟩

theorem witness_StopStep :
    (NoReset (inMode (.stop 8)) ∧ (inMode (.stop 8)).mode = .stop 8 ∧
      stopRelease 8 (inMode (.stop 8)).req (inMode (.stop 8)) = false) ∧
    (let s := { inMode (.stop 8) with req := ⟨false, false, true⟩, en := ⟨false, false, true⟩ }
     NoReset s ∧ s.mode = .stop 8 ∧ stopRelease 8 s.req s = true) ∧
    (∀ tmck ∈ [0#2, 1, 2], let s := { inMode (.stop 8) with timer := (counting tmck).timer }
     NoReset s ∧ s.mode = .stop 8 ∧ s.timer.tmck = tmck) := by
  simp only [NoReset]; decide

theorem witness_WaitStep :
    (NoReset (inMode (.wait .afterReset 2)) ∧ (currentSlot (inMode (.wait .afterReset 2))).prolongWait = false) ∧
    (NoReset (inMode (.wait .afterReset 1)) ∧ (currentSlot (inMode (.wait .afterReset 1))).prolongWait = false) ∧
    (NoReset (inMode (.wait .afterStop 0)) ∧ (currentSlot (inMode (.wait .afterStop 0))).prolongWait = false) ∧
    (let s := { inMode (.wait .afterStop 1) with inputs := [{ resetSlot [] with prolongWait := true }] }
     NoReset s ∧ (currentSlot s).prolongWait = true) :=
  ⟨⟨by rfl, rfl⟩, ⟨by rfl, rfl⟩, ⟨by rfl, rfl⟩, by rfl, rfl⟩

theorem witness_OperandAddresses :
    ((indexed false false).psw.ixe = false ∧ (indexed false false).mpe = false) ∧
    ((indexed false true).psw.ixe = false ∧ (indexed false true).mpe = true) ∧
    ((indexed true false).psw.ixe = true ∧ (indexed true false).mpe = false) := by decide

theorem witness_WriteStoresOneNibble :
    (0x6E#7).toNat ≤ State.reset.chip.part.ramLast ∧ (0x00#7).toNat ≤ State.reset.chip.part.ramLast ∧
      0x74 ≤ (0x74#7).toNat ∧ 0x74 ≤ (0x7F#7).toNat := by decide

theorem witness_ProgramMemory :
    (let s := { State.reset with pc := 0x3FF }; (0x3FF#10).toNat ≤ s.chip.part.romLast ∧ 0x3FF#10 = s.pc) ∧
    0x3FF#10 ≠ State.reset.pc ∧
    (let s := { State.reset with chip := { State.reset.chip with part := .uPD17120 } }
     s.chip.part.romLast < (0x300#10).toNat) := by decide

theorem witness_SettingDisabled :
    [Instr.addRM 0 0, .movMI 0x7F 0xF, .sklt 0 0, .movIndM 0 0].all inTable71 = true ∧
      ¬ SettingOpen (indexed true true) := by
  simp only [SettingOpen]; decide

theorem witness_AddInstructions :
    SettingOpen (indexed false false) ∧ SettingOpen (indexed true false) ∧ SettingOpen (indexed false true) := by
  simp only [SettingOpen]; decide

theorem witness_SubtractInstructions :
    SettingOpen (indexed false false) ∧ SettingOpen (indexed true false) ∧ SettingOpen (indexed false true) := by
  simp only [SettingOpen]; decide

theorem witness_LogicalInstructions :
    SettingOpen (indexed false false) ∧ SettingOpen (indexed true false) ∧ SettingOpen (indexed false true) := by
  simp only [SettingOpen]; decide

theorem witness_JudgementInstructions :
    SettingOpen (indexed false false) ∧ SettingOpen (indexed true false) ∧ SettingOpen (indexed false true) := by
  simp only [SettingOpen]; decide

theorem witness_ComparisonInstructions :
    SettingOpen (indexed false false) ∧ SettingOpen (indexed true false) ∧ SettingOpen (indexed false true) := by
  simp only [SettingOpen]; decide

theorem witness_LoadStoreInstructions :
    SettingOpen (indexed false false) ∧ SettingOpen (indexed true false) ∧ SettingOpen (indexed false true) := by
  simp only [SettingOpen]; decide

theorem witness_IndirectMoves :
    SettingOpen (indexed false false) ∧ SettingOpen (indexed true false) ∧ SettingOpen (indexed false true) := by
  simp only [SettingOpen]; decide

theorem witness_TableReference : HasFreeLevel (withSp 1) ∧ HasFreeLevel (withSp 5) ∧ ¬ HasFreeLevel (withSp 0) := by
  simp only [HasFreeLevel]; decide

theorem witness_PushPop :
    HasFreeLevel (withSp 1) ∧ HasFreeLevel (withSp 5) ∧ HasEntry (withSp 0) ∧ HasEntry (withSp 4) := by
  simp only [HasFreeLevel, HasEntry]; decide

theorem witness_StackRoundTrip :
    HasFreeLevel (withSp 1) ∧ (∃ t, exec .pushAR (withSp 1) = .next t) ∧ (∃ t, exec (.call 0x3FF) (withSp 1) = .next t) ∧
      ∃ t, exec .callAR (withSp 1) = .next t :=
  ⟨by simp only [HasFreeLevel]; decide, ⟨_, rfl⟩, ⟨_, rfl⟩, _, rfl⟩

theorem witness_BranchInstructions : (0x3FF#11).getLsbD 10 = false ∧ (0x400#11).getLsbD 10 = true := by decide

theorem witness_CallInstructions :
    (0x3FF#11).getLsbD 10 = false ∧ (0x400#11).getLsbD 10 = true ∧ HasFreeLevel (withSp 1) ∧ HasFreeLevel (withSp 5) := by
  simp only [HasFreeLevel]; decide

theorem witness_ReturnInstructions : HasEntry (withSp 0) ∧ HasEntry (withSp 4) := by
  simp only [HasEntry]; decide

theorem witness_PeekInstruction :
    (0x3F#7).toNat < 0x40 ∧ 0x40 ≤ (0x40#7).toNat ∧ (0x0F#7).toNat < 0x40 ∧
      State.reset.chip.part.hasComparator = true := by decide

theorem witness_PokeDataMemory : 0x40 ≤ (0x40#7).toNat ∧ 0x40 ≤ (0x7F#7).toNat := by decide

theorem witness_PokeControlRegisters :
    (withWr 5).wr.toNat % 8 ≤ 5 ∧ (withWr 0xD).wr.toNat % 8 ≤ 5 ∧ (0x00#7).toNat < 0x40 ∧
      0x00#7 ∉ [0x01, 0x0A, 0x10, 0x11, 0x12, 0x1A, 0x1C, 0x1D, 0x1E, 0x1F, 0x23, 0x24, 0x2F, 0x32, 0x33, 0x34, 0x35,
        0x3D, 0x3E, 0x3F] := by decide

theorem witness_PeekAfterPoke :
    ¬ (0x01#7 = 0x01 ∧ 6 ≤ (withWr 5).wr.toNat % 8) ∧ (∃ t, exec (.poke 0x01) (withWr 5) = .next t) ∧
      (∃ t, exec (.poke 0x11) (withWr 0xF) = .next t) ∧ ∃ t, exec (.poke 0x3F) (withWr 0xF) = .next t :=
  ⟨by decide, ⟨_, rfl⟩, ⟨_, rfl⟩, _, rfl⟩

theorem witness_PokeComparator :
    Part.uPD17121.hasComparator = false ∧ State.reset.chip.part.hasComparator = true := by decide

theorem witness_PokeSerial :
    (State.reset.serial.siots = false ∨ (withWr 0).wr.getLsbD 0 = true) ∧
    (transferring.serial.siots = true ∧ { transferring with wr := 0xE }.wr.getLsbD 0 = false) ∧
    (let s := { withWr 8 with serial := { transferring.serial with siots := false } }
     s.wr.getLsbD 3 = true ∧ s.serial.sioen = true ∧ s.serial.siots = false) ∧
    (let s := { transferring with wr := 8 }
     s.wr.getLsbD 3 = true ∧ s.serial.sioen = true ∧ s.serial.siots = true) ∧
    (withWr 7).wr.getLsbD 3 = false ∧ ((withWr 8).wr.getLsbD 3 = true ∧ (withWr 8).serial.sioen = false) := by decide

theorem witness_PokeTimerMode :
    (withWr 4).wr.getLsbD 2 = true ∧
    ((withWr 8).wr.getLsbD 2 = false ∧ (withWr 8).timer.tmen = true) ∧
    ((withWr 3).wr.getLsbD 2 = false ∧ (withWr 3).wr.getLsbD 3 = false) ∧
    (let s := { withWr 8 with timer := { State.reset.timer with tmen := false } }
     s.wr.getLsbD 2 = false ∧ s.timer.tmen = false ∧ s.wr.getLsbD 3 = true) ∧
    (∀ c ∈ [(8#4, 0#2), (9, 1), (10, 2), (11, 3)], let s := { stopped with wr := c.1 }
     s.wr.getLsbD 2 = false ∧ s.timer.tmen = false ∧ s.wr.getLsbD 3 = true ∧ s.wr.extractLsb' 0 2 = c.2) := by decide

theorem witness_PutInstruction :
    State.reset.serial.siots = false ∧ transferring.serial.siots = true ∧
    (dbfRead (withRam [(0x0F, 1)])).extractLsb' 0 8 ≠ 0 ∧ (dbfRead (withRam [(0x0D, 1)])).extractLsb' 0 8 = 0 ∧
    0x02#7 ∉ [0x01, 0x03, 0x40] := by decide

theorem witness_HaltInstruction :
    (2#4 ∈ [0b0000#4, 0b0010, 0b1000, 0b1010] ∧ haltRelease 2 State.reset.irqSeen State.reset = true) ∧
    (8#4 ∈ [0b0000#4, 0b0010, 0b1000, 0b1010] ∧ haltRelease 8 State.reset.irqSeen State.reset = false) ∧
    1#4 ∉ [0b0000#4, 0b0010, 0b1000, 0b1010] ∧ 0xF#4 ∉ [0b0000#4, 0b0010, 0b1000, 0b1010] := by decide

theorem witness_StopInstruction :
    (let s := { State.reset with irqSeen := ⟨false, false, true⟩, en := ⟨false, false, true⟩ }
     stopRelease 8 s.irqSeen s = true) ∧
    (stopRelease 8 State.reset.irqSeen State.reset = false ∧ State.reset.comparator.busy = 0) ∧
    (1#4 ≠ 0 ∧ 1#4 ≠ 8) ∧ 0xF#4 ≠ 0 ∧ 0xF#4 ≠ 8 := by decide

theorem witness_TimerInterval :
    let s := { State.reset with req := .none }
    s.timer.tmc = 0 ∧ s.req.tm = false ∧ (0 ≤ s.timer.tmm.toNat) ∧ (255 ≤ s.timer.tmm.toNat) := by decide

theorem witness_TimerPrescaler :
    (State.reset.timer.tmen = true ∧ State.reset.timer.tmck = 0 ∧
      State.reset.timer.tmc.toNat + 1 ≤ State.reset.timer.tmm.toNat) ∧
    (counting 1).timer.tmck = 1 ∧ (counting 2).timer.tmck = 2 ∧
    ((counting 3).timer.tmck = 3 ∧ (counting 3).timer.tmen = true ∧ (counting 3).mode = .run) ∧
    (stopped.timer.tmen = false) := by decide

theorem witness_SerialTransfer :
    transferring.serial.siots = true ∧ transferring.serial.sioen = true ∧ transferring.serial.siock = 0 ∧
    transferring.serial.count = 0 ∧ transferring.serial.armed = false ∧ transferring.serial.sckPrev = true ∧
    transferring.serial.siohiz = false := by decide

theorem witness_ComparisonEnds :
    comparingNow.comparator.strt = true ∧ comparingNow.comparator.disturbed = false ∧ 0 < comparingNow.comparator.busy ∧
      1 < comparingNow.comparator.busy := by decide

theorem witness_PortRegisters :
    3 < 4 ∧ State.reset.serial.sioen = false ∧ State.reset.timer.tmosel = false ∧ transferring.serial.sioen = true ∧
      { State.reset.timer with tmosel := true }.tmosel = true := by decide

theorem witness_InternalSerialClock :
    (clocked 1 0).serial.siots = true ∧ (clocked 1 0).serial.sioen = true ∧ (clocked 1 0).serial.armed = true ∧
    (clocked 1 0).serial.siock = 1 ∧ (clocked 2 7).serial.siock = 2 ∧ (clocked 3 7).serial.siock = 3 ∧
    (clocked 3 7).serial.siock ≠ 0 := by decide

/-! ## Points of the timer, the waits and the stack fault -/

-- R411: with the external clock the overflow of the prescaler counts nothing
theorem test_timer_external : (timerSlot { counting 3 with timer := { (counting 3).timer with presc := 2047 } }).timer.tmc = 0 := by
  decide
-- R411: in WAIT mode the timer counts; R405: in RUN mode the match sets IRQTM
theorem test_timer_wait : (timerSlot { counting 0 with
    mode := .wait .afterReset 9, timer := { (counting 0).timer with presc := 0xF0 } }).timer.tmc = 1 := by decide
-- R365, R410: the match that ends the wait after STOP toggles TMOUT
theorem test_stop_wait_ends : after (step (inMode (.wait .afterStop 1))) (fun t => t.mode == .run && !t.timer.tmout && t.req.tm) := by
  decide
-- R93: a reset in HALT mode gives SIOSFR back as HALT found it, whatever a transfer has shifted since
theorem test_retained : after (step { inMode (.halt 8) with
    inputs := [resetSlot [false]], serial := { State.reset.serial with siosfr := 0x4B, retained := 0xA5 } })
    (fun t => t.serial.siosfr == 0xA5) := by decide
theorem test_retains : after (exec (.halt 8) { State.reset with serial := { State.reset.serial with siosfr := 0xA5 } })
    (fun t => t.serial.retained == 0xA5) := by decide
-- R365: (TMM + 1) × 256 system clocks are 4096 slots for TMM = FFH
theorem test_stop_wait_slots : stopWaitSlots (counting 0) = 4096 ∧ stopWaitSlots (counting 1) = 512 := by decide
-- R345: INT at its new level after the slot of a stack fault
theorem test_stack_fault_pins : after (step { placed 0x38E0 with inputs := [{ resetSlot [] with intLevels := [true] }] })
    (fun t => t.pc == 0 && t.pins.int && t.intPrev && !t.req.pin) := by decide
end Sys2Proof.Tests
end

section
/-! PROOFS of the state family (1): how one step of the machine unfolds, said once: the equations of the step by reset,
mode and skip, and for each of its parts everything it can answer. -/
namespace Sys2Proof.Machine

/-! ## The step by its cases (R491) -/

/-- A reset event takes the slot (R461, R462). -/
theorem resetComes_iff (s : State) : ResetComes s ↔
    (resetFalls s.pins.reset (currentSlot s).resetLevels || powerResets (currentSlot s) s) = true := by
  simp only [ResetComes, powerResets, Bool.or_eq_true, Bool.and_eq_true, beq_iff_eq]

/-- Step 0 of R491 in a slot with a reset event. -/
theorem resetPhase_of_resetComes {s : State} (h : ResetComes s) :
    resetPhase (currentSlot s) (openSlot s) = some (applyReset (settlePins (currentSlot s) (openSlot s))) :=
  if_pos ((resetComes_iff s).1 h)

/-- Step 0 of R491 in a slot with no reset event, at the end of which RESET is low. -/
theorem resetPhase_of_endsLow {s : State} (h : ¬ ResetComes s) (hl : ¬ EndsHigh s) :
    resetPhase (currentSlot s) (openSlot s) = some (settlePins (currentSlot s) (openSlot s)) :=
  (if_neg fun hr => h ((resetComes_iff s).2 hr)).trans (if_pos (by simpa [EndsHigh] using hl))

/-- Step 0 of R491 in a slot with no reset event, at the end of which RESET is high. -/
theorem resetPhase_of_endsHigh {s : State} (h : ¬ ResetComes s) (hh : EndsHigh s) :
    resetPhase (currentSlot s) (openSlot s) = none :=
  (if_neg fun hr => h ((resetComes_iff s).2 hr)).trans (if_neg (by simpa [EndsHigh] using hh))

/-- No reset takes the slot exactly when no event comes and RESET ends high (R461). -/
theorem noReset_iff (s : State) : NoReset s ↔ ¬ ResetComes s ∧ EndsHigh s := by
  by_cases hr : ResetComes s
  · simp [NoReset, resetPhase_of_resetComes hr, hr]
  · by_cases hh : EndsHigh s
    · simp [NoReset, resetPhase_of_endsHigh hr hh, hr, hh]
    · simp [NoReset, resetPhase_of_endsLow hr hh, hh]

/-- All that step 0 of R491 can answer. -/
theorem resetPhase_cases {h : HostSlot} {s u : State} (hu : resetPhase h s = some u) :
    u = applyReset (settlePins h s) ∨ u = settlePins h s := by
  unfold resetPhase at hu
  split at hu
  · exact .inl (Option.some.inj hu).symm
  · split at hu
    · exact .inr (Option.some.inj hu).symm
    · cases hu

/-- The step in a slot that a reset takes. -/
theorem step_of_reset {s u : State} (h : resetPhase (currentSlot s) (openSlot s) = some u) : step s = .next u := by
  simp only [step, cycle, h]

/-- The step in a slot without a reset goes by the mode. -/
theorem step_of_noReset {s : State} (h : NoReset s) : step s = modeSlot (currentSlot s) (atBoundary s) := by
  have hn : resetPhase (currentSlot s) (openSlot s) = none := h
  simp only [step, cycle, hn]
  rfl

/-- The second slot of MOVT, when a reset takes it, is the step of that slot (R490). -/
theorem secondSlot_of_reset {s : State} (h : ¬ NoReset s) : step s = .next (secondSlot s) := by
  obtain ⟨u, hu⟩ := Option.ne_none_iff_exists'.1 h
  rw [step_of_reset hu]
  simp only [secondSlot, hu]

/-- The second slot of MOVT without a reset: the delayed view and the end of a slot (R491 2c). -/
theorem secondSlot_of_noReset {s : State} (h : NoReset s) :
    secondSlot s = closeSlot false (decide (0 < s.comparator.busy)) (currentSlot s) (atBoundary s) := by
  have hn : resetPhase (currentSlot s) (openSlot s) = none := h
  simp only [secondSlot, hn]
  rfl

/-- The step in RUN mode. -/
theorem modeSlot_of_run {s : State} (h : HostSlot) (hm : s.mode = .run) : modeSlot h s = runSlot h s := by
  simp only [modeSlot, hm]

/-- A slot in RUN mode with nothing to accept is an instruction's (R337). -/
theorem runSlot_of_noAccept {s : State} (h : HostSlot) (hn : NoAccept s) :
    runSlot h s = runInstr (decide (0 < s.comparator.busy)) h s := by
  rcases hn with hn | hn
  · simp only [runSlot, hn]
  · simp only [runSlot, hn]
    cases acceptEnabled s <;> rfl

/-- A step in RUN mode with no reset and nothing to accept is an instruction's slot (R491 2b, 2c). -/
theorem step_of_noAccept {s : State} (hr : NoReset s) (hm : s.mode = .run) (hn : NoAccept s) :
    step s = runInstr (decide (0 < s.comparator.busy)) (currentSlot s) (atBoundary s) :=
  ((step_of_noReset hr).trans (modeSlot_of_run _ hm)).trans (runSlot_of_noAccept _ hn)

/-- Nothing is accepted while a skip is pending (R337). -/
theorem noAccept_of_skip {s : State} (h : s.skipNext = true) : NoAccept s := .inl (by simp [acceptEnabled, h])

/-- A pending skip passes the word (R24). -/
theorem runInstr_of_skip {s : State} (comparing : Bool) (h : HostSlot) (hk : s.skipNext = true) :
    runInstr comparing h s = .next (closeSlot false comparing h { advancePc s with skipNext := false }) := by
  simp only [runInstr, hk, if_true]

/-- Without a skip the word at pc executes (R491 2b, 2c). -/
theorem runInstr_of_decoded {s : State} {i : Instr} (comparing : Bool) (h : HostSlot) (hk : s.skipNext = false)
    (hd : decode (fetched s) = .ok i) :
    runInstr comparing h s = match exec i (advancePc s) with
      | .next u => .next (finishInstr i comparing h (advancePc s) u)
      | .fault r => .fault r
      | .refused r => .refused r := by
  simp only [runInstr, hk, hd, Bool.false_eq_true, if_false] <;> rfl

/-- Without a skip an undefined word is refused (R157). -/
theorem runInstr_of_undefined {s : State} {e : DecodeError} (comparing : Bool) (h : HostSlot) (hk : s.skipNext = false)
    (hd : decode (fetched s) = .error e) : runInstr comparing h s = .refused .undefinedEncoding := by
  simp only [runInstr, hk, hd, Bool.false_eq_true, if_false]

/-- All that the slot of a skip or an instruction can answer with a next state. -/
theorem runInstr_cases {comparing : Bool} {h : HostSlot} {s t : State} (ht : runInstr comparing h s = .next t) :
    t = closeSlot false comparing h { advancePc s with skipNext := false } ∨
    ∃ i u, s.skipNext = false ∧ exec i (advancePc s) = .next u ∧ t = finishInstr i comparing h (advancePc s) u := by
  cases hk : s.skipNext with
  | true => rw [runInstr_of_skip _ _ hk] at ht; exact .inl (Host.Outcome.next.inj ht).symm
  | false =>
    cases hd : decode (fetched s) with
    | error e => rw [runInstr_of_undefined _ _ hk hd] at ht; cases ht
    | ok i =>
      rw [runInstr_of_decoded _ _ hk hd] at ht
      cases he : exec i (advancePc s) with
      | next u => rw [he] at ht; exact .inr ⟨i, u, rfl, he, (Host.Outcome.next.inj ht).symm⟩
      | fault r => rw [he] at ht; cases ht
      | refused r => rw [he] at ht; cases ht

/-- All that a slot in RUN mode can answer with a next state (R337, R338). -/
theorem runSlot_cases {h : HostSlot} {s t : State} (ht : runSlot h s = .next t) :
    t = settlePins h (stackFaultReset s) ∨
    (∃ src, pushFaults s = false ∧ t = closeSlot false (decide (0 < s.comparator.busy)) h (takeInterrupt src s)) ∨
    runInstr (decide (0 < s.comparator.busy)) h s = .next t := by
  by_cases hn : NoAccept s
  · exact .inr (.inr (runSlot_of_noAccept h hn ▸ ht))
  · simp only [NoAccept, not_or, Bool.not_eq_false] at hn
    obtain ⟨ha, hp⟩ := hn
    obtain ⟨src, hsrc⟩ := Option.ne_none_iff_exists'.1 hp
    simp only [runSlot, ha, hsrc] at ht
    cases hf : pushFaults s <;> rw [hf] at ht
    · exact .inr (.inl ⟨src, rfl, (Host.Outcome.next.inj ht).symm⟩)
    · exact .inl (Host.Outcome.next.inj ht).symm

end Sys2Proof.Machine
end

section
/-! PROOFS of the state family (2): the invariant. It speaks of a few fields only, so an update of any other field keeps
it; then every instruction keeps it, every part of a slot, and so every step. -/
namespace Sys2Proof.Machine

/-! ## The invariant sees a few fields only -/

/-- The fields the invariant speaks of. -/
def invFields (s : State) :=
  (s.chip, s.ram, s.rom, s.sp, s.eiDelay, s.mode, s.skipNext, s.comparator.strt, s.comparator.busy, s.serial.siots,
    s.serial.sioen, s.timer.tmm)

/-- A state that agrees on these fields has the invariant too. -/
theorem Inv.of_fields {s t : State} (hi : Inv s) (h : invFields t = invFields s) : Inv t := by
  simp only [invFields, Prod.mk.injEq] at h
  obtain ⟨hchip, hram, hrom, hsp, hei, hmode, hskip, hstrt, hbusy, hsiots, hsioen, htmm⟩ := h
  constructor
  case ramWf => rw [hchip, hram]; exact hi.ramWf
  case ramNibbles => rw [hram]; exact hi.ramNibbles
  case romWf => rw [hrom]; exact hi.romWf
  case spLegal => rw [hsp]; exact hi.spLegal
  case eiLegal => rw [hei]; exact hi.eiLegal
  case modeLegal => rw [hmode]; exact hi.modeLegal
  case skipRuns => rw [hskip, hmode]; exact hi.skipRuns
  case comparing => rw [hstrt, hbusy]; exact hi.comparing
  case comparingBound => rw [hbusy, hchip]; exact hi.comparingBound
  case serialEnabled => rw [hsiots, hsioen]; exact hi.serialEnabled
  case moduloNonzero => rw [htmm]; exact hi.moduloNonzero

/-- The mode may become any legal one while no skip is pending. -/
theorem Inv.of_mode {s : State} (hi : Inv s) {m : Mode} (hm : legalMode m = true)
    (hk : s.skipNext = true → m = .run) : Inv { s with mode := m } :=
  { hi with modeLegal := hm, skipRuns := hk }

/-- Outside RUN mode no skip is pending. -/
theorem Inv.skipNext_of_mode {s : State} (hi : Inv s) (hm : s.mode ≠ .run) : s.skipNext = false :=
  Bool.eq_false_iff.2 fun hk => hm (hi.skipRuns hk)

/-- What a meaning answers has the invariant when its next state has. -/
theorem Inv.of_next {u t : State} (h : (.next u : Answer State) = .next t) (hi : Inv u) : Inv t :=
  Host.Outcome.next.inj h ▸ hi

/-- An instruction of Table 7-1 keeps the invariant when its meaning does (R115). -/
theorem tableGuard_inv {s u t : State} (h : tableGuard s (.next u) = .next t) (hi : Inv u) : Inv t :=
  .of_next (tableGuard_cases h).2 hi

/-- A skip decided in RUN mode keeps the invariant (R24). -/
theorem skipWhen_inv {s : State} (hi : Inv s) (hm : s.mode = .run) (b : Bool) : Inv (skipWhen b s) := by
  cases b with
  | false => exact hi
  | true => exact { hi with skipRuns := fun _ => hm }

/-- A push and what follows it keep the invariant (R29, R321). -/
theorem withPush_inv {v : CodeAddr} {s t : State} {act : State → State} (h : withPush v s act = .next t) (hi : Inv s)
    (hact : ∀ u, Inv u → Inv (act u)) : Inv t := by
  obtain ⟨_, rfl⟩ | ⟨hp, rfl⟩ := withPush_cases h
  · exact stackFaultReset_inv hi
  · exact hact _ (push_inv hi v hp)

/-- A pop and what follows it keep the invariant (R29, R321). -/
theorem withPop_inv {s t : State} {act : CodeAddr → State → State} (h : withPop s act = .next t) (hi : Inv s)
    (hact : ∀ v, Inv (pop s) → Inv (act v (pop s))) : Inv t := by
  obtain ⟨_, rfl⟩ | ⟨hp, rfl⟩ := withPop_cases h
  · exact stackFaultReset_inv hi
  · exact hact _ (pop_inv hi hp)

/-! ## Instructions whose meaning is more than one shared operation -/

/-- A bit judgement in RUN mode keeps the invariant (R240). -/
theorem judgeBits_inv {test : Nibble → Bool} {m : DataAddr} {s t : State} (hi : Inv s) (hm : s.mode = .run)
    (h : judgeBits test m s = .next t) : Inv t := by
  have hc : Inv { s with psw := { s.psw with cmp := false } } := hi.of_fields rfl
  exact tableGuard_inv h (skipWhen_inv hc hm _)

/-- RORC keeps the invariant (R255). -/
theorem execRorc_inv {r : RegNum} {s t : State} (hi : Inv s) (h : execRorc r s = .next t) : Inv t :=
  .of_next h ((memWrite_inv hi _ _).of_fields rfl)

/-- MOVT keeps the invariant: the pop finds the level its push took (R270). -/
theorem execMovt_inv {s t : State} (hi : Inv s) (h : execMovt s = .next t) : Inv t := by
  obtain ⟨_, rfl⟩ | ⟨hp, rfl⟩ := withPush_cases h
  · exact stackFaultReset_inv hi
  · exact pop_inv (dbfWrite_inv (push_inv hi _ hp) _) hp

/-- RETI keeps the invariant (R299). -/
theorem execReti_inv {s t : State} (hi : Inv s) (h : execReti s = .next t) : Inv t := by
  unfold execReti at h
  split at h
  · exact .of_next h (stackFaultReset_inv hi)
  · next hp => exact .of_next h ((pop_inv hi (Bool.eq_false_iff.2 hp)).of_fields rfl)

/-- BR keeps the invariant (R290). -/
theorem execBr_inv {addr : BranchOperand} {s t : State} (hi : Inv s) (h : execBr addr s = .next t) : Inv t := by
  unfold execBr at h
  split at h
  · cases h
  · exact .of_next h (hi.of_fields rfl)

/-- CALL keeps the invariant (R295). -/
theorem execCall_inv {addr : BranchOperand} {s t : State} (hi : Inv s) (h : execCall addr s = .next t) : Inv t := by
  unfold execCall at h
  split at h
  · cases h
  · exact withPush_inv h hi fun _ hu => hu.of_fields rfl

/-- CALL @AR keeps the invariant (R296). -/
theorem execCallAR_inv {s t : State} (hi : Inv s) (h : execCallAR s = .next t) : Inv t :=
  withPush_inv h hi fun _ hu => hu.of_fields rfl

/-- POP AR keeps the invariant (R273). -/
theorem execPopAR_inv {s t : State} (hi : Inv s) (h : execPopAR s = .next t) : Inv t :=
  withPop_inv h hi fun _ hp => hp.of_fields rfl

/-- RET keeps the invariant (R297). -/
theorem execRet_inv {s t : State} (hi : Inv s) (h : execRet s = .next t) : Inv t :=
  withPop_inv h hi fun _ hp => hp.of_fields rfl

/-- RETSK in RUN mode keeps the invariant (R298). -/
theorem execRetsk_inv {s t : State} (hi : Inv s) (hm : s.mode = .run) (h : execRetsk s = .next t) : Inv t :=
  withPop_inv h hi fun _ hp => { hp with skipRuns := fun _ => hm }

/-- EI keeps the invariant: the delay is 2 (R305). -/
theorem execEi_inv {s t : State} (hi : Inv s) (h : execEi s = .next t) : Inv t :=
  .of_next h { hi with eiLegal := Nat.le_refl 2 }

/-- DI keeps the invariant: the delay is 0 (R306). -/
theorem execDi_inv {s t : State} (hi : Inv s) (h : execDi s = .next t) : Inv t :=
  .of_next h { hi with eiLegal := Nat.zero_le 2 }

/-- Entering HALT mode with a defined operand keeps the invariant (R351). -/
theorem enterHalt_inv {s : State} (hi : Inv s) (hk : s.skipNext = false) {c : Nibble} (hc : legalHalt c = true) :
    Inv (enterHalt c s) :=
  (hi.of_mode (m := .halt c) hc (by simp [hk])).of_fields rfl

/-- Entering STOP mode with operand 8 keeps the invariant: no comparison is left running (R360). -/
theorem enterStop_inv {s : State} (hi : Inv s) (hk : s.skipNext = false) {c : Nibble} (hc : legalStop c = true) :
    Inv (enterStop c s) :=
  { hi with
    modeLegal := hc
    skipRuns := by simp [hk]
    comparing := rfl
    comparingBound := Nat.zero_le _ }

/-- HALT keeps the invariant: a reserved operand is refused (R311). -/
theorem execHalt_inv {c : Nibble} {s t : State} (hi : Inv s) (hk : s.skipNext = false) (h : execHalt c s = .next t) :
    Inv t := by
  unfold execHalt at h
  split at h
  · cases h
  · next hc =>
    split at h
    · exact .of_next h hi
    · exact .of_next h (enterHalt_inv hi hk (by simpa [legalHalt] using hc))

/-- The operands of STOP that are not refused are the defined ones (R310). -/
theorem legalStop_of_low : ∀ {c : Nibble}, ¬ c.extractLsb' 0 3 ≠ 0 → legalStop c = true := by decide

/-- STOP keeps the invariant: a reserved operand is refused (R310). -/
theorem execStop_inv {c : Nibble} {s t : State} (hi : Inv s) (hk : s.skipNext = false) (h : execStop c s = .next t) :
    Inv t := by
  unfold execStop at h
  split at h
  · cases h
  · next hc =>
    split at h
    · exact .of_next h (stopInitialize_inv hi)
    · split at h
      · exact .of_next h hi
      · exact .of_next h (enterStop_inv hi hk (legalStop_of_low hc))

/-- Every instruction executed in RUN mode, with no skip pending, keeps the invariant. -/
theorem exec_inv {i : Instr} {s t : State} (hi : Inv s) (hm : s.mode = .run) (hk : s.skipNext = false)
    (h : exec i s = .next t) : Inv t := by
  cases i with
  | addRM | addMI | addcRM | addcMI | subRM | subMI | subcRM | subcMI => exact tableGuard_inv h (commit_inv hi _ _)
  | orRM | orMI | andRM | andMI | xorRM | xorMI => exact tableGuard_inv h (memWrite_inv hi _ _)
  | ld | st | movIndM | movMInd | movMI => exact tableGuard_inv h (memWrite_inv hi _ _)
  | skt m n => exact judgeBits_inv (test := fun v => v &&& n == n) hi hm h
  | skf m n => exact judgeBits_inv (test := fun v => v &&& n == 0) hi hm h
  | ske | skne | skge | sklt => exact tableGuard_inv h (skipWhen_inv hi hm _)
  | rorc => exact execRorc_inv hi h
  | incAR | incIX | peek | brAR => exact .of_next h (hi.of_fields rfl)
  | movt => exact execMovt_inv hi h
  | pushAR => exact withPush_inv h hi fun _ hu => hu
  | popAR => exact execPopAR_inv hi h
  | ret => exact execRet_inv hi h
  | retsk => exact execRetsk_inv hi hm h
  | reti => exact execReti_inv hi h
  | poke rf => exact rfWrite_inv hi rf _ h
  | get p => exact .of_next h (peripheralGet_inv hi p)
  | put p => exact peripheralPut_inv hi p h
  | br => exact execBr_inv hi h
  | call => exact execCall_inv hi h
  | callAR => exact execCallAR_inv hi h
  | ei => exact execEi_inv hi h
  | di => exact execDi_inv hi h
  | stop => exact execStop_inv hi hk h
  | halt => exact execHalt_inv hi hk h
  | nop => exact .of_next h hi

/-! ## The parts of a slot -/

/-- Opening a slot keeps the invariant (R492). -/
theorem openSlot_inv {s : State} (hi : Inv s) : Inv (openSlot s) := hi.of_fields rfl

/-- The boundary of a slot keeps the invariant (R491 steps 0 and 1). -/
theorem atBoundary_inv {s : State} (hi : Inv s) : Inv (atBoundary s) := hi.of_fields rfl

/-- Moving pc past the word keeps the invariant (R22). -/
theorem advancePc_inv {s : State} (hi : Inv s) : Inv (advancePc s) := hi.of_fields rfl

/-- Passing the word of a skip keeps the invariant (R24). -/
theorem passSkip_inv {s : State} (hi : Inv s) : Inv { advancePc s with skipNext := false } :=
  { advancePc_inv hi with skipRuns := fun hk => nomatch (hk : false = true) }

/-- Taking an interrupt on a free stack level keeps the invariant (R338). -/
theorem takeInterrupt_inv {s : State} (hi : Inv s) (src : IrqSource) (hp : pushFaults s = false) :
    Inv (takeInterrupt src s) :=
  (push_inv hi s.pc hp).of_fields rfl

/-- Step 0 of a slot keeps the invariant (R461). -/
theorem resetPhase_inv {h : HostSlot} {s u : State} (hi : Inv s) (hu : resetPhase h s = some u) : Inv u := by
  obtain rfl | rfl := resetPhase_cases hu
  · exact applyReset_inv (settlePins_inv hi h)
  · exact settlePins_inv hi h

/-- The second slot of MOVT keeps the invariant (R490). -/
theorem secondSlot_inv {s : State} (hi : Inv s) : Inv (secondSlot s) := by
  by_cases hr : NoReset s
  · rw [secondSlot_of_noReset hr]
    exact closeSlot_inv (atBoundary_inv hi) _ _ _
  · obtain ⟨u, hu⟩ := Option.ne_none_iff_exists'.1 hr
    have ht : u = secondSlot s := Host.Outcome.next.inj ((step_of_reset hu).symm.trans (secondSlot_of_reset hr))
    exact ht ▸ resetPhase_inv (openSlot_inv hi) hu

/-- The end of an instruction's slot keeps the invariant. -/
theorem finishInstr_inv {s : State} (hi : Inv s) (i : Instr) (comparing : Bool) (h : HostSlot) (before : State) :
    Inv (finishInstr i comparing h before s) := by
  unfold finishInstr
  split
  · exact settlePins_inv hi h
  · split
    · exact secondSlot_inv (closeSlot_inv hi _ _ _)
    · exact closeSlot_inv hi _ _ _

/-- The slot of a skip or an instruction keeps the invariant. -/
theorem runInstr_inv {comparing : Bool} {h : HostSlot} {s t : State} (hi : Inv s) (hm : s.mode = .run)
    (ht : runInstr comparing h s = .next t) : Inv t := by
  obtain rfl | ⟨i, u, hk, he, rfl⟩ := runInstr_cases ht
  · exact closeSlot_inv (passSkip_inv hi) _ _ _
  · exact finishInstr_inv (exec_inv (advancePc_inv hi) hm hk he) _ _ _ _

/-- A slot in RUN mode keeps the invariant. -/
theorem runSlot_inv {h : HostSlot} {s t : State} (hi : Inv s) (hm : s.mode = .run) (ht : runSlot h s = .next t) :
    Inv t := by
  obtain rfl | ⟨src, hp, rfl⟩ | ht := runSlot_cases ht
  · exact settlePins_inv (stackFaultReset_inv hi) h
  · exact closeSlot_inv (takeInterrupt_inv hi src hp) _ _ _
  · exact runInstr_inv hi hm ht

/-- A slot in HALT mode keeps the invariant (R352). -/
theorem haltSlot_inv {c : Nibble} {h : HostSlot} {s t : State} (hi : Inv s) (ht : haltSlot c h s = .next t) :
    Inv t := by
  unfold haltSlot at ht
  split at ht
  · exact runSlot_inv (hi.of_mode (m := .run) rfl fun _ => rfl) rfl ht
  · exact .of_next ht (slotDevices_inv hi _ _ _)

/-- A slot in STOP mode keeps the invariant (R361, R365). -/
theorem stopSlot_inv {c : Nibble} {s : State} (hi : Inv s) (hk : s.skipNext = false) (h : HostSlot) :
    Inv (stopSlot c h s) := by
  unfold stopSlot
  split
  · exact stoppedDevices_inv (hi.of_mode rfl (by simp [hk])) h
  · exact stoppedDevices_inv hi h

/-- A slot of a stabilization wait keeps the invariant (R463). -/
theorem waitSlot_inv {kind : WaitKind} {left : Nat} {s : State} (hi : Inv s) (hk : s.skipNext = false) (h : HostSlot) :
    Inv (waitSlot kind left h s) := by
  have hd : Inv (slotDevices false false h s) := slotDevices_inv hi _ _ _
  have hkd : (slotDevices false false h s).skipNext = false := (slotDevices_skipNext _ _ _ _).trans hk
  unfold waitSlot
  dsimp only
  split
  · exact hd
  · split
    · exact (hd.of_mode (m := .run) rfl fun _ => rfl).of_fields rfl
    · exact hd.of_mode rfl (by simp [hkd])

/-- Step 2 of a slot, by the mode, keeps the invariant (R491). -/
theorem modeSlot_inv {h : HostSlot} {s t : State} (hi : Inv s) (ht : modeSlot h s = .next t) : Inv t := by
  unfold modeSlot at ht
  split at ht
  case h_1 hm => exact runSlot_inv hi hm ht
  case h_2 hm => exact haltSlot_inv hi ht
  case h_3 hm => exact .of_next ht (stopSlot_inv hi (hi.skipNext_of_mode (by simp [hm])) h)
  case h_4 hm => exact .of_next ht (waitSlot_inv hi (hi.skipNext_of_mode (by simp [hm])) h)

/-! ## Reset and step -/

/-- The machine after reset has the invariant (R92). -/
theorem reset_inv : Inv State.reset where
  ramWf := rfl
  ramNibbles := rfl
  romWf := rfl
  spLegal := by decide
  eiLegal := by decide
  modeLegal := rfl
  skipRuns _ := rfl
  comparing := rfl
  comparingBound := by decide
  serialEnabled h := nomatch h
  moduloNonzero := by decide

/-- A step keeps the invariant: a reset takes the slot, or step 2 of R491 does from the state at the boundary. -/
theorem step_inv {s t : State} (hi : Inv s) (ht : step s = .next t) : Inv t := by
  by_cases hr : NoReset s
  · rw [step_of_noReset hr] at ht
    exact modeSlot_inv (atBoundary_inv hi) ht
  · obtain ⟨u, hu⟩ := Option.ne_none_iff_exists'.1 hr
    rw [step_of_reset hu] at ht
    exact .of_next ht (resetPhase_inv (openSlot_inv hi) hu)

end Sys2Proof.Machine
end

section
/-! PROOFS of the state family (3): the resets (R92, R461, R464) and the end of a slot (R491 steps 4 and 5). -/
namespace Sys2Proof.Machine

/-! ## The reset columns -/

/-- The common part of the columns of R92 leaves the registers the table states. -/
theorem resetCommon_registers (ctrl : Bool) (s : State) : ResetRegisters ctrl s (resetCommon ctrl s) :=
  ⟨rfl, rfl, rfl, rfl, rfl, rfl, rfl, rfl, rfl, rfl, ⟨rfl, rfl, rfl, rfl, rfl, rfl⟩, rfl, rfl,
    ⟨rfl, rfl, rfl, rfl, rfl⟩, ⟨rfl, rfl, rfl, rfl, rfl, rfl, rfl⟩, rfl, rfl, rfl, rfl, rfl, rfl, rfl, rfl⟩

/-- The registers after a reset depend on the chip and the program memory alone of the state before. -/
theorem ResetRegisters.of_source {ctrl : Bool} {s s' t : State} (h : ResetRegisters ctrl s t) (hchip : s.chip = s'.chip)
    (hrom : s.rom = s'.rom) : ResetRegisters ctrl s' t := by
  unfold ResetRegisters
  rw [← hchip, ← hrom]
  exact h

/-- Clearing the latches and setting SIOSFR keeps the registers of the table (R92 column PinResetStandby). -/
theorem pinResetStandby_registers (s : State) : ResetRegisters true s (pinResetStandby s) :=
  resetCommon_registers true s

/-- Drawing data memory, WR and SIOSFR keeps the registers of the table (R92 column PinReset). -/
theorem pinReset_registers (s : State) : ResetRegisters true s (pinReset s) := resetCommon_registers true s

/-- A pin reset clears the latches (R92). -/
theorem pinResetStandby_latches (s : State) : LatchesClear (pinResetStandby s) := ⟨rfl, rfl, rfl, rfl, rfl⟩

/-- A pin reset from standby retains data memory other than the data buffer (R93). -/
theorem ramRead_pinResetStandby (s : State) {a : Nat} (ha : a ∉ dbfAddrs) :
    ramRead (pinResetStandby s).ram a = ramRead s.ram a :=
  ramRead_drawRam_other s.slot dbfAddrs s.ram ha

/-! ## A reset that takes a slot -/

/-- A reset of any mode leaves the registers of the table and the latches clear, and starts the wait (R366, R463). -/
theorem applyReset_registers (s : State) :
    ResetRegisters true s (applyReset s) ∧ LatchesClear (applyReset s) ∧ (applyReset s).timer.tmc = 0 ∧
      (applyReset s).mode = .wait .afterReset 4096 := by
  unfold applyReset
  cases s.mode with
  | run => exact ⟨pinReset_registers s, pinResetStandby_latches s, rfl, rfl⟩
  | halt c => exact ⟨pinResetStandby_registers s, pinResetStandby_latches s, rfl, rfl⟩
  | stop c => exact ⟨pinResetStandby_registers s, pinResetStandby_latches s, rfl, rfl⟩
  | wait kind left => exact ⟨pinReset_registers s, pinResetStandby_latches s, rfl, rfl⟩

/-- A reset in standby is the column PinResetStandby, then the wait (R93). -/
theorem applyReset_of_standby {s : State} {c : Nibble} (hm : s.mode = .halt c ∨ s.mode = .stop c) :
    applyReset s = { pinResetStandby s with mode := .wait .afterReset resetWaitSlots } := by
  rcases hm with hm | hm <;> simp only [applyReset, hm]

/-- A reset in standby retains WR, the noted SIOSFR and data memory other than the data buffer (R93). -/
theorem applyReset_retains {s : State} {c : Nibble} (hm : s.mode = .halt c ∨ s.mode = .stop c) :
    (applyReset s).wr = s.wr ∧ (applyReset s).serial.siosfr = s.serial.retained ∧
      ∀ a : Nat, a ∉ dbfAddrs → ramRead (applyReset s).ram a = ramRead s.ram a := by
  rw [applyReset_of_standby hm]
  exact ⟨rfl, rfl, fun a ha => ramRead_pinResetStandby s ha⟩

/-! ## The stack fault (R29, R321) -/

/-- A push faults exactly with SP 0, 6 or 7 (R29). -/
theorem pushFaults_iff (s : State) : pushFaults s = true ↔ s.sp ∈ [0#3, 6, 7] := by
  unfold pushFaults
  generalize s.sp = sp
  revert sp
  decide

/-- A pop faults exactly with SP 5, 6 or 7 (R29). -/
theorem popFaults_iff (s : State) : popFaults s = true ↔ s.sp ∈ [5#3, 6, 7] := by
  unfold popFaults
  generalize s.sp = sp
  revert sp
  decide

/-- A push does not fault on a free level. -/
theorem pushFaults_of_freeLevel {s : State} (h : HasFreeLevel s) : pushFaults s = false := by
  obtain ⟨hlo, hhi⟩ := h
  have : ¬ 4 < (s.sp - 1).toNat := by bv_omega
  simpa [pushFaults] using this

/-- A pop does not fault on an entry. -/
theorem popFaults_of_entry {s : State} (h : HasEntry s) : popFaults s = false := by
  have : s.sp.toNat ≤ 4 := h
  simpa [popFaults] using this

/-- A faulting push is the stack fault reset, whatever would follow it. -/
theorem withPush_of_fault {s : State} (v : CodeAddr) (act : State → State) (h : pushFaults s = true) :
    withPush v s act = .next (stackFaultReset s) := if_pos h

/-- A push that does not fault is made, and what follows it. -/
theorem withPush_of_level {s : State} (v : CodeAddr) (act : State → State) (h : pushFaults s = false) :
    withPush v s act = .next (act (push v s)) := if_neg (by simp [h])

/-- A faulting pop is the stack fault reset, whatever would follow it. -/
theorem withPop_of_fault {s : State} (act : CodeAddr → State → State) (h : popFaults s = true) :
    withPop s act = .next (stackFaultReset s) := if_pos h

/-- A pop that does not fault is made, and what follows it. -/
theorem withPop_of_entry {s : State} (act : CodeAddr → State → State) (h : popFaults s = false) :
    withPop s act = .next (act (asrRead s s.sp) (pop s)) := if_neg (by simp [h])

/-- PUSH AR is a push (R272). -/
theorem exec_pushAR (s : State) : exec .pushAR s = withPush s.ar s id := rfl

/-- POP AR is a pop into AR (R273). -/
theorem exec_popAR (s : State) : exec .popAR s = withPop s fun v t => { t with ar := v } := rfl

/-- CALL @AR is a push and a jump (R296). -/
theorem exec_callAR (s : State) : exec .callAR s = withPush s.pc s fun t => { t with pc := s.ar } := rfl

/-- MOVT is a push, a load of DBF and a pop (R270). -/
theorem exec_movt (s : State) : exec .movt s = withPush s.pc s fun t => pop (dbfWrite (romRead s s.ar) t) := rfl

/-- RET is a pop into pc (R297). -/
theorem exec_ret (s : State) : exec .ret s = withPop s fun v t => { t with pc := v } := rfl

/-- RETSK is a pop into pc and a skip (R298). -/
theorem exec_retsk (s : State) : exec .retsk s = withPop s fun v t => { t with pc := v, skipNext := true } := rfl

/-- RETI on an entry is the return (R299). -/
theorem exec_reti (s : State) (h : popFaults s = false) : exec .reti s = .next (returnFromInterrupt s) :=
  if_neg (by simp [h])

/-- CALL to an address that has an encoding is a push and a jump (R295). -/
theorem exec_call {addr : BranchOperand} (s : State) (h : addr.getLsbD 10 = false) :
    exec (.call addr) s = withPush s.pc s fun t => { t with pc := branchTarget addr } :=
  if_neg (by rw [h]; exact Bool.false_ne_true)

/-- POKE SP of 6 or 7 is the stack fault reset (R33, R321). -/
theorem writeSp_of_fault {v : Nibble} (s : State) (h : 5 < (v.extractLsb' 0 3).toNat) :
    writeSp v s = stackFaultReset s := if_pos h

/-- An instruction that raises the stack fault is the stack fault reset (R321). -/
theorem exec_of_stackFault {i : Instr} {s : State} (hw : i.wellFormed = true) (h : raisesStackFault i s = true) :
    exec i s = .next (stackFaultReset s) := by
  cases i with
  | call addr => rw [exec_call s (by simpa [Instr.wellFormed] using hw)]; exact withPush_of_fault _ _ h
  | callAR => exact (exec_callAR s).trans (withPush_of_fault _ _ h)
  | pushAR => exact (exec_pushAR s).trans (withPush_of_fault _ _ h)
  | movt => exact (exec_movt s).trans (withPush_of_fault _ _ h)
  | ret => exact (exec_ret s).trans (withPop_of_fault _ h)
  | retsk => exact (exec_retsk s).trans (withPop_of_fault _ h)
  | popAR => exact (exec_popAR s).trans (withPop_of_fault _ h)
  | reti => exact if_pos h
  | poke rf =>
    obtain ⟨hrf, hsp⟩ := Bool.and_eq_true_iff.1 h
    obtain rfl := eq_of_beq hrf
    exact congrArg Host.Outcome.next (writeSp_of_fault s (of_decide_eq_true hsp))
  | _ => cases h

/-! ## The end of a slot -/

/-- The EI delay leaves pc (R86). -/
theorem tickEi_pc (s : State) : (tickEi s).pc = s.pc := by
  unfold tickEi
  split <;> rfl

/-- The EI delay leaves the skip flag (R86). -/
theorem tickEi_skipNext (s : State) : (tickEi s).skipNext = s.skipNext := by
  unfold tickEi
  split <;> rfl

/-- Steps 4 and 5 of R491 end a slot as `SlotEnd` says. -/
theorem closeSlot_slotEnd (single comparing : Bool) (h : HostSlot) (s : State) :
    SlotEnd single comparing h (tickEi s) (closeSlot single comparing h s) := by
  unfold closeSlot
  generalize tickEi s = u
  refine ⟨slotDevices_devices single comparing h u, fun hm => ?_, fun c hm => ?_, fun kind left hm => ?_,
    fun c hm => ?_⟩
  · exact ⟨clockedDevices single h u, rfl, by simp only [slotDevices, hm]⟩
  all_goals simp only [slotDevices, hm]; rfl

/-- A slot of a stack fault settles the pins (log entry 25). -/
theorem finishInstr_of_fault {i : Instr} {before : State} (comparing : Bool) (h : HostSlot) (after : State)
    (hf : raisesStackFault i before = true) : finishInstr i comparing h before after = settlePins h after := if_pos hf

/-- A slot of any other instruction than MOVT closes; that of GET TMC counts one pulse at most (R406). -/
theorem finishInstr_of_closed {i : Instr} {before : State} (comparing : Bool) (h : HostSlot) (after : State)
    (hf : raisesStackFault i before = false) (hi : i ≠ .movt) :
    finishInstr i comparing h before after = closeSlot (decide (i = .get 0x02)) comparing h after :=
  (if_neg (by simp [hf])).trans (if_neg hi)

/-- MOVT closes its slot and takes a second one (R490). -/
theorem finishInstr_of_movt {before : State} (comparing : Bool) (h : HostSlot) (after : State)
    (hf : raisesStackFault .movt before = false) :
    finishInstr .movt comparing h before after = secondSlot (closeSlot false comparing h after) :=
  (if_neg (by simp [hf])).trans (if_pos rfl)

end Sys2Proof.Machine
end

section
/-! PROOFS of the state family (4): operands, data memory, and what single instructions do: each meaning's equation
where its operands let it complete, and its frame. -/
namespace Sys2Proof.Machine

/-! ## Data memory and operands -/

/-- The addresses from 74H on are the system register's (R35, R110). -/
theorem region_of_system {part : Part} {a : DataAddr} (h : 0x74 ≤ a.toNat) : region part a = .system := by
  have hr : part.ramLast ≤ 0x6E := by cases part <;> decide
  unfold region
  rw [if_neg (by omega), if_neg (by omega)]
  split <;> first | rfl | omega

/-- Mounted data memory reads the nibble just written (R110). -/
theorem memRead_memWrite_ram {s : State} {a : DataAddr} (site : Draw) (v : Nibble) (h : a.toNat ≤ s.chip.part.ramLast) :
    memRead (memWrite s a v) site a = v := by
  have hr : region s.chip.part a = .ram := region_ram_iff.2 h
  rw [memRead_of_ram site (by rwa [memWrite_chip]), memWrite_of_ram v hr]
  exact ramRead_ramWrite_same _ v s.ram

/-- The system register reads the existing bits of the nibble just written (R45). -/
theorem memRead_memWrite_system {s : State} {a : DataAddr} (site : Draw) (v : Nibble) (h : 0x74 ≤ a.toNat) :
    memRead (memWrite s a v) site a = v &&& existingBits a := by
  have hr : region s.chip.part a = .system := region_of_system h
  rw [memRead_of_system site (by rwa [memWrite_chip]), memWrite_of_system v hr]
  exact sysRead_sysWrite_same s a v

/-- Outside the stuck case the guard of Table 7-1 is open (R118). -/
theorem SettingOpen.guard {s : State} (h : SettingOpen s) : (s.psw.ixe && s.mpe) = false := by
  rcases h with h | h
  · rw [h]; rfl
  · rw [h, Bool.and_false]

/-! ## Arithmetic (R197) -/

/-- `z_new` of R197, as the statements write it. -/
theorem zeroFlag_eq (p : Psword) (res : Nibble) :
    zeroFlag p res = if res ≠ 0 then false else if p.cmp then p.z else true := by
  unfold zeroFlag
  by_cases h : res = 0
  · rw [if_pos h, if_neg (not_not_intro h)]
  · rw [if_neg h, if_pos h]

/-- The state with CY and Z by an arithmetic result (R197). -/
def withResultFlags (out : Bool × Nibble) (s : State) : State :=
  { s with psw := { s.psw with cy := out.1, z := zeroFlag s.psw out.2 } }

/-- With CMP = 1 the commit sets the flags alone (R197). -/
theorem commit_of_cmp {s : State} (dest : DataAddr) (out : Bool × Nibble) (h : s.psw.cmp = true) :
    commit dest out s = withResultFlags out s := by
  simp [commit, withResultFlags, h]

/-- A result committed to PSW is stored, and no flag set besides (R194). -/
theorem commit_psw {s : State} (out : Bool × Nibble) (h : s.psw.cmp = false) :
    commit 0x7F out s = memWrite s 0x7F out.2 := by
  simp [commit, h]

/-- Any other committed result is stored after the flags are set (R197). -/
theorem commit_of_dest {s : State} {dest : DataAddr} (out : Bool × Nibble) (h : s.psw.cmp = false) (hd : dest ≠ 0x7F) :
    commit dest out s = memWrite (withResultFlags out s) dest out.2 := by
  have hd' : (dest == 0x7F) = false := beq_eq_false_iff_ne.2 hd
  simp only [commit, h, hd', Bool.and_false, Bool.false_eq_true, if_false, withResultFlags]

/-- The commit leaves what R197 and R194 say. -/
theorem commit_commits (dest : DataAddr) (out : Bool × Nibble) (s : State) :
    CommitsArith dest out.1 out.2 s (commit dest out s) := by
  unfold CommitsArith
  rw [← zeroFlag_eq]
  dsimp only
  split
  · exact commit_of_cmp dest out ‹_›
  · next hc =>
    have hc : s.psw.cmp = false := Bool.eq_false_iff.2 hc
    split
    · next hd =>
      subst hd
      rw [commit_psw out hc]
      exact memWrite_storesNibble s 0x7F out.2
    · next hd =>
      rw [commit_of_dest out hc hd]
      exact memWrite_storesNibble (withResultFlags out s) dest out.2

/-- An arithmetic instruction of form `r, m` completes and commits its result (R197, R198). -/
theorem arithRM_commits (f : Bool → Nibble → Nibble → Bool → Bool × Nibble) (c : Bool) (r : RegNum) (m : DataAddr)
    {s : State} (hs : SettingOpen s) :
    let out := f s.psw.bcd (memRead s .first (generalReg s r)) (memRead s .second (eaM s m)) c
    ∃ t, arithRM f c r m s = .next t ∧ CommitsArith (generalReg s r) out.1 out.2 s t :=
  ⟨_, tableGuard_open _ hs.guard, commit_commits _ _ _⟩

/-- An arithmetic instruction of form `m, #n4` completes and commits its result (R197, R198). -/
theorem arithMI_commits (f : Bool → Nibble → Nibble → Bool → Bool × Nibble) (c : Bool) (m : DataAddr) (n4 : Nibble)
    {s : State} (hs : SettingOpen s) :
    let out := f s.psw.bcd (memRead s .first (eaM s m)) n4 c
    ∃ t, arithMI f c m n4 s = .next t ∧ CommitsArith (eaM s m) out.1 out.2 s t :=
  ⟨_, tableGuard_open _ hs.guard, commit_commits _ _ _⟩

/-! ## The stack -/

/-- The entry a push made is read at the new stack pointer (R29). -/
theorem asrRead_push {s : State} (v : CodeAddr) (h : pushFaults s = false) : asrRead (push v s) (s.sp - 1) = v := by
  have hsp : (s.sp - 1).toNat < 5 := by
    have : ¬ 4 < (s.sp - 1).toNat := by simpa [pushFaults] using h
    omega
  rw [asrRead, push_asr, Vector.getElem?_setIfInBounds_self_of_lt hsp, Option.getD_some]

/-- POP AR after a push of `v`, whatever AR then holds, puts `v` into AR at the old stack level (R272, R273). -/
theorem exec_popAR_push {s : State} (v x : CodeAddr) (h : pushFaults s = false) :
    ∃ u, exec .popAR { push v s with ar := x } = .next u ∧ u.ar = v ∧ u.sp = s.sp :=
  ⟨_, (exec_popAR _).trans (withPop_of_entry _ h), asrRead_push v h, BitVec.sub_add_cancel _ _⟩

/-- RET after a push of `v`, whatever pc then holds, continues at `v` at the old stack level (R297). -/
theorem exec_ret_push {s : State} (v x : CodeAddr) (h : pushFaults s = false) :
    ∃ u, exec .ret { push v s with pc := x } = .next u ∧ u.pc = v ∧ u.sp = s.sp :=
  ⟨_, (exec_ret _).trans (withPop_of_entry _ h), asrRead_push v h, BitVec.sub_add_cancel _ _⟩

/-- PUSH AR on a free level. -/
theorem exec_pushAR_of_level {s : State} (h : HasFreeLevel s) : exec .pushAR s = .next (push s.ar s) :=
  (exec_pushAR s).trans (withPush_of_level _ _ (pushFaults_of_freeLevel h))

/-- CALL @AR on a free level. -/
theorem exec_callAR_of_level {s : State} (h : HasFreeLevel s) :
    exec .callAR s = .next { push s.pc s with pc := s.ar } :=
  (exec_callAR s).trans (withPush_of_level _ _ (pushFaults_of_freeLevel h))

/-- CALL on a free level, to an address that has an encoding. -/
theorem exec_call_of_level {addr : BranchOperand} {s : State} (ha : addr.getLsbD 10 = false) (h : HasFreeLevel s) :
    exec (.call addr) s = .next { push s.pc s with pc := branchTarget addr } :=
  (exec_call s ha).trans (withPush_of_level _ _ (pushFaults_of_freeLevel h))

/-- CALL with operand bit 10 set is refused (R163). -/
theorem exec_call_of_bit10 {addr : BranchOperand} (s : State) (ha : addr.getLsbD 10 = true) :
    exec (.call addr) s = .refused .undefinedEncoding := if_pos ha

/-- The target of BR and CALL is the operand without bit 10 (R290, R295). -/
theorem branchTarget_eq (addr : BranchOperand) : branchTarget addr = addr.setWidth 10 :=
  (BitVec.setWidth_eq_extractLsb' (by decide)).symm

/-! ## The register file -/

/-- POKE below 40H writes a control register (R125). -/
theorem exec_poke_control {rf : DataAddr} (s : State) (h : rf.toNat < 0x40) :
    exec (.poke rf) s = ctrlWrite s rf s.wr := if_pos (Nat.le_of_lt_succ h)

/-- The register file below 40H reads a control register (R125). -/
theorem rfRead_control {rf : DataAddr} (s : State) (site : Draw) (h : rf.toNat < 0x40) :
    rfRead s site rf = ctrlRead s site rf := if_pos (Nat.le_of_lt_succ h)

/-- The register file from 40H on reads data memory (R126). -/
theorem rfRead_data {rf : DataAddr} (s : State) (site : Draw) (h : 0x40 ≤ rf.toNat) :
    rfRead s site rf = memRead s site rf := if_neg (Nat.not_le_of_lt h)

/-- The addresses of the control registers a write reaches (R60). -/
def controlAddrs : List DataAddr :=
  [0x01, 0x0A, 0x10, 0x11, 0x12, 0x1A, 0x1C, 0x1D, 0x1E, 0x1F, 0x23, 0x24, 0x2F, 0x32, 0x33, 0x34, 0x35, 0x3D, 0x3E,
    0x3F]

/-- A write to any other address below 40H changes nothing (R60, R125). -/
theorem ctrlWrite_of_unused {a : DataAddr} (s : State) (v : Nibble) (h : a ∉ controlAddrs) :
    ctrlWrite s a v = .next s := by
  simp only [controlAddrs, List.mem_cons, ← BitVec.toNat_inj, not_or] at h
  unfold ctrlWrite
  split
  case h_21 => rfl
  all_goals next hk => simp [hk] at h

/-- The low three bits of a nibble. -/
theorem low3_toNat (v : Nibble) : (v.extractLsb' 0 3).toNat = v.toNat % 8 := by simp

/-- A write of SP up to 5 goes through (R33). -/
theorem writeSp_of_legal {v : Nibble} (s : State) (h : v.toNat % 8 ≤ 5) :
    writeSp v s = { s with sp := v.extractLsb' 0 3 } := if_neg (by rw [low3_toNat]; omega)

/-- A write to a comparator register on a part without a comparator (R81). -/
theorem onComparator_absent {s : State} (t : State) (h : s.chip.part.hasComparator = false) : onComparator s t = s :=
  if_neg (by rw [h]; exact Bool.false_ne_true)

/-- A write to a comparator register on a part with one (R67 to R71). -/
theorem onComparator_present {s : State} (t : State) (h : s.chip.part.hasComparator = true) : onComparator s t = t :=
  if_pos h

/-- The write of SIOEN where it is no misuse (R61, R430). -/
theorem writeSioen_of_legal {v : Nibble} {s : State} (h : s.serial.siots = false ∨ v.getLsbD 0 = true) :
    writeSioen v s = .next { s with serial := { s.serial with sioen := v.getLsbD 0 } } :=
  if_neg (by rcases h with h | h <;> rw [h] <;> simp)

/-- The write of the serial mode register where it is no misuse (R430, R433). -/
theorem writeSerialMode_of_legal {v : Nibble} {s : State} (h : v.getLsbD 3 = false ∨ s.serial.sioen = true) :
    writeSerialMode v s = .next (writeSiots (v.getLsbD 3)
      { s with serial := { s.serial with siohiz := v.getLsbD 2, siock := v.extractLsb' 0 2 } }) :=
  if_neg (by rcases h with h | h <;> rw [h] <;> simp)

/-- SIOTS written 1 with no transfer running starts one (R433). -/
theorem writeSiots_start {s : State} (h : s.serial.siots = false) : writeSiots true s =
    { s with req := { s.req with sio := false }
             serial := { s.serial with siots := true, count := 0, armed := false } } := by
  simp [writeSiots, h]

/-- SIOTS written 1 during a transfer clears IRQSIO alone (R433, D24). -/
theorem writeSiots_running {s : State} (h : s.serial.siots = true) : writeSiots true s =
    { s with req := { s.req with sio := false } } := if_pos h

/-- A 2-bit field in the low bits of its nibble (R60). -/
theorem lowPair_eq (v : BitVec 2) : lowPair v = 0#2 ++ v := by revert v; decide

/-- A flag in bit 0 of its nibble (R60). -/
theorem flagNibble_eq (b : Bool) : flagNibble b = 0#3 ++ BitVec.ofBool b := by revert b; decide

/-- The timer mode register's nibble as PEEK reads it (R64). -/
theorem timerMode_nibble (b : Bool) (v : BitVec 2) :
    nibble b false (v.getLsbD 1) (v.getLsbD 0) = BitVec.ofBool b ++ 0#1 ++ v := by revert b v; decide

/-- The comparison register's nibble as PEEK reads it (R69). -/
theorem comparison_nibble (b c : Bool) : nibble false false b c = 0#2 ++ BitVec.ofBool b ++ BitVec.ofBool c := by
  revert b c; decide

/-- A comparator register reads its value on a part with a comparator (R81). -/
theorem ctrlRead_comparator {s : State} (site : Draw) (h : s.chip.part.hasComparator = true) :
    ctrlRead s site 0x1C = lowPair s.comparator.ch ∧ ctrlRead s site 0x1D = s.comparator.vref ∧
    ctrlRead s site 0x1E = nibble false false s.comparator.strt s.comparator.rslt ∧
    ctrlRead s site 0x23 = s.ports.cidi :=
  ⟨if_pos h, if_pos h, if_pos h, if_pos h⟩

/-! ## The timer mode register (R407) -/

/-- A count pulse changes at most the count, the output flip-flop and IRQTM (R405). -/
theorem countPulse_frame (s : State) : countPulse s = { s with
    timer := { s.timer with tmc := (countPulse s).timer.tmc, tmout := (countPulse s).timer.tmout }
    req := { s.req with tm := (countPulse s).req.tm } } := by
  unfold countPulse
  split <;> rfl

/-- The timer with TMEN and TMCK as the nibble has them. -/
def withTimerMode (w : Nibble) (s : State) : State :=
  { s with timer := { s.timer with tmen := w.getLsbD 3, tmck := w.extractLsb' 0 2 } }

/-- The write starts the timer while the count signal is low. -/
def countsAtStart (w : Nibble) (s : State) : Bool :=
  !s.timer.tmen && w.getLsbD 3 && countSignalLow (withTimerMode w s)

/-- The write before its TMRES action. -/
def timerModeStart (w : Nibble) (s : State) : State :=
  if countsAtStart w s then countPulse (withTimerMode w s) else withTimerMode w s

/-- The write in its two actions, the start and the reset of the count. -/
theorem writeTimerMode_eq (w : Nibble) (s : State) :
    writeTimerMode w s = if w.getLsbD 2 then timerReset (timerModeStart w s) else timerModeStart w s := rfl

/-- Without TMRES the write is the start alone. -/
theorem writeTimerMode_of_noReset {w : Nibble} {s : State} (h : w.getLsbD 2 = false) :
    writeTimerMode w s = timerModeStart w s := if_neg (by rw [h]; exact Bool.false_ne_true)

/-- The start changes TMEN, TMCK, the count, the output flip-flop and IRQTM at most. -/
theorem timerModeStart_frame (w : Nibble) (s : State) : timerModeStart w s = { s with
    timer := { s.timer with tmen := w.getLsbD 3, tmck := w.extractLsb' 0 2, tmc := (timerModeStart w s).timer.tmc,
                            tmout := (timerModeStart w s).timer.tmout }
    req := { s.req with tm := (timerModeStart w s).req.tm } } := by
  unfold timerModeStart
  split
  · exact countPulse_frame (withTimerMode w s)
  · rfl

/-- So does the whole write. -/
theorem writeTimerMode_frame (w : Nibble) (s : State) : writeTimerMode w s = { s with
    timer := { s.timer with tmen := w.getLsbD 3, tmck := w.extractLsb' 0 2, tmc := (writeTimerMode w s).timer.tmc,
                            tmout := (writeTimerMode w s).timer.tmout }
    req := { s.req with tm := (writeTimerMode w s).req.tm } } := by
  have hf := timerModeStart_frame w s
  rw [writeTimerMode_eq]
  split
  · exact congrArg timerReset hf
  · exact hf

/-- Without a start no pulse is counted. -/
theorem timerModeStart_of_noStart {w : Nibble} {s : State} (h : s.timer.tmen = true ∨ w.getLsbD 3 = false) :
    timerModeStart w s = withTimerMode w s :=
  if_neg (by rcases h with h | h <;> simp only [countsAtStart, h] <;> simp)

/-- A start counts one pulse at once exactly while the count signal is low (R407). -/
theorem timerModeStart_of_start {w : Nibble} {s : State} (he : s.timer.tmen = false) (hw : w.getLsbD 3 = true) :
    timerModeStart w s =
      if countSignalLow (withTimerMode w s) then countPulse (withTimerMode w s) else withTimerMode w s := by
  have hc : countsAtStart w s = countSignalLow (withTimerMode w s) := by
    unfold countsAtStart
    rw [he, hw]
    rfl
  rw [timerModeStart, hc]

/-- The signal of an internal count clock of `m` system clocks is low in the first half of its period (R401, R404). -/
theorem countSignalLow_internal {s : State} {m : Nat}
    (h : (s.timer.tmck, m) ∈ [(0#2, 256), (1#2, 32), (2#2, 2048)]) :
    countSignalLow s = decide (s.timer.presc.toNat % m < m / 2) := by
  simp only [List.mem_cons, List.not_mem_nil, or_false, Prod.mk.injEq] at h
  rcases h with ⟨hck, rfl⟩ | ⟨hck, rfl⟩ | ⟨hck, rfl⟩ <;> simp [countSignalLow, countDivisor, hck]

/-! ## Standby -/

/-- The operands of HALT that are defined (R311). -/
theorem halt_defined_iff (h : Nibble) :
    h ∈ [0b0000#4, 0b0010, 0b1000, 0b1010] ↔ (h.getLsbD 2 || h.getLsbD 0) = false := by revert h; decide

/-- HALT with a defined operand (R311). -/
theorem exec_halt_of_defined {h : Nibble} (s : State) (hd : (h.getLsbD 2 || h.getLsbD 0) = false) :
    exec (.halt h) s = if haltRelease h s.irqSeen s then .next s else .next (enterHalt h s) :=
  if_neg (by rw [hd]; exact Bool.false_ne_true)

/-- HALT with a reserved operand is refused (R311). -/
theorem exec_halt_of_reserved {h : Nibble} (s : State) (hd : (h.getLsbD 2 || h.getLsbD 0) = true) :
    exec (.halt h) s = .refused .reservedStandbyCondition := if_pos hd

/-- STOP with a reserved operand is refused (R310). -/
theorem exec_stop_of_reserved {c : Nibble} (s : State) (h0 : c ≠ 0) (h8 : c ≠ 8) :
    exec (.stop c) s = .refused .reservedStandbyCondition :=
  if_pos (by revert h0 h8; revert c; decide)

/-- STOP 1000B is a no-operation when released, else it enters STOP mode (R310). -/
theorem exec_stop_8 (s : State) :
    exec (.stop 8) s = if stopRelease 8 s.irqSeen s then .next s else .next (enterStop 8 s) := by
  show execStop 8 s = _
  rw [execStop, if_neg (by decide), if_neg (by decide)]

/-- STOP 0000B sets the registers up for a reset (R310, R362). -/
theorem exec_stop_0 (s : State) : exec (.stop 0) s = .next (stopInitialize s) := by
  show execStop 0 s = _
  rw [execStop, if_neg (by decide), if_pos rfl]

/-- STOP 0000B leaves the registers and latches of column PinResetStandby (R362). -/
theorem stopInitialize_registers (s : State) :
    ResetRegisters true s (stopInitialize s) ∧ LatchesClear (stopInitialize s) :=
  ⟨pinResetStandby_registers (retainShiftRegister s), pinResetStandby_latches (retainShiftRegister s)⟩

end Sys2Proof.Machine
end

section
/-! PROOFS of the state family (5): the statements, by tier, assembled from the laws above. -/
namespace Sys2Proof.Certificates
open Sys2Proof.Machine

/-! ## Tier 3 -/

/-- Settles O6. -/
theorem stepKeepsInvariant : Obligations.StepKeepsInvariant := fun _ _ => step_inv

/-! ## Tier 2 -/

/-- Settles O7: the step is the reset of the settled, opened slot, which keeps what the clauses name of `s`. -/
theorem pinReset : Obligations.PinReset := by
  intro s
  refine ⟨noReset_iff s, fun hr => ?_, fun hr hl => ?_⟩
  · obtain ⟨hregs, hlatches, htmc, hmode⟩ := applyReset_registers (settlePins (currentSlot s) (openSlot s))
    refine ⟨_, step_of_reset (resetPhase_of_resetComes hr), ?_⟩
    exact ⟨hregs.of_source rfl rfl, hlatches, htmc, hmode,
      fun c hm => applyReset_retains (s := settlePins (currentSlot s) (openSlot s)) hm⟩
  · exact ⟨_, step_of_reset (resetPhase_of_endsLow hr hl), settlePins_settled _ _⟩

/-- Settles O9. -/
theorem stackFaultReplaces : Obligations.StackFaultReplaces :=
  fun _ s hw => ⟨pushFaults_iff s, popFaults_iff s, exec_of_stackFault hw⟩

/-- Settles O11: each way an instruction's slot can end, by its equation, closes slots as `closeSlot_slotEnd` says. -/
theorem slotEndMovesDevices : Obligations.SlotEndMovesDevices := by
  intro i comparing h before after
  refine ⟨rfl, fun hf => ?_, fun hf hi => ?_, fun hf => ?_⟩
  · rw [finishInstr_of_fault _ _ _ hf]
    exact settlePins_settled h after
  · rw [finishInstr_of_closed _ _ _ hf hi]
    exact closeSlot_slotEnd _ _ _ _
  · rw [finishInstr_of_movt _ _ _ hf]
    refine ⟨closeSlot false comparing h after, closeSlot_slotEnd _ _ _ _, fun hr => ?_, secondSlot_of_reset⟩
    rw [secondSlot_of_noReset hr]
    exact closeSlot_slotEnd _ _ _ _

/-- Settles O12: nothing is accepted with a skip pending, and the devices leave pc and the skip flag. -/
theorem stepSkips : Obligations.StepSkips := by
  intro s hr hm hk
  have hend := closeSlot_slotEnd false (decide (0 < s.comparator.busy)) (currentSlot s)
    { afterFetch s with skipNext := false }
  have hframe := hend.1.1
  refine ⟨_, (step_of_noAccept hr hm (noAccept_of_skip hk)).trans (runInstr_of_skip _ _ hk), hend, ?_, ?_⟩
  · exact (congrArg State.pc hframe).trans (tickEi_pc _)
  · exact (congrArg State.skipNext hframe).trans (tickEi_skipNext _)

/-- Settles O20. -/
theorem writeStoresOneNibble : Obligations.WriteStoresOneNibble :=
  fun s site a v => ⟨memWrite_storesNibble s a v, memRead_memWrite_ram site v, memRead_memWrite_system site v⟩

/-- Settles O25. -/
theorem addInstructions : Obligations.AddInstructions := fun s hs =>
  ⟨fun r m => ⟨rfl, rfl, arithRM_commits aluAdd false r m hs, arithRM_commits aluAdd s.psw.cy r m hs⟩,
    fun m n4 => ⟨rfl, rfl, arithMI_commits aluAdd false m n4 hs, arithMI_commits aluAdd s.psw.cy m n4 hs⟩⟩

/-- Settles O26. -/
theorem subtractInstructions : Obligations.SubtractInstructions := fun s hs =>
  ⟨fun r m => ⟨rfl, rfl, arithRM_commits aluSub false r m hs, arithRM_commits aluSub s.psw.cy r m hs⟩,
    fun m n4 => ⟨rfl, rfl, arithMI_commits aluSub false m n4 hs, arithMI_commits aluSub s.psw.cy m n4 hs⟩⟩

/-- Settles O36: on a free level the first instruction is a push, which the second finds. -/
theorem stackRoundTrip : Obligations.StackRoundTrip := by
  intro s t addr x hl
  have hp : pushFaults s = false := pushFaults_of_freeLevel hl
  refine ⟨fun ht => ?_, fun ht => ?_⟩
  · obtain rfl := Host.Outcome.next.inj ((exec_pushAR_of_level hl).symm.trans ht)
    exact exec_popAR_push s.ar x hp
  · rcases ht with ht | ht
    · cases ha : addr.getLsbD 10 with
      | true => rw [exec_call_of_bit10 s ha] at ht; cases ht
      | false =>
        obtain rfl := Host.Outcome.next.inj ((exec_call_of_level ha hl).symm.trans ht)
        exact exec_ret_push s.pc x hp
    · obtain rfl := Host.Outcome.next.inj ((exec_callAR_of_level hl).symm.trans ht)
      exact exec_ret_push s.pc x hp

/-- Settles O46: the write is a start, then the TMRES action; each clause fixes which of them acts. -/
theorem pokeTimerMode : Obligations.PokeTimerMode := by
  intro s
  refine ⟨writeTimerMode s.wr s, rfl, writeTimerMode_frame s.wr s, fun hres => ?_, fun hres hstart => ?_,
    fun hres he hw => ?_⟩
  · rw [writeTimerMode_eq, if_pos hres]
    exact ⟨rfl, rfl, rfl⟩
  · rw [writeTimerMode_of_noReset hres, timerModeStart_of_noStart hstart]
    exact ⟨rfl, rfl, rfl⟩
  · have hu : withTimerMode s.wr s =
        { s with timer := { s.timer with tmen := true, tmck := s.wr.extractLsb' 0 2 } } := by rw [withTimerMode, hw]
    rw [writeTimerMode_of_noReset hres, timerModeStart_of_start he hw, hu]
    refine ⟨rfl, fun m hm hck => ?_, fun hck => ?_⟩
    · refine countSignalLow_internal ?_
      show (s.wr.extractLsb' 0 2, m.2) ∈ _
      rw [hck]
      exact hm
    · exact if_pos hck

/-- Settles O52. -/
theorem stopInitializes : Obligations.StopInitializes := fun s =>
  have ⟨hregs, hlatches⟩ := stopInitialize_registers s
  ⟨stopInitialize s, exec_stop_0 s, hregs, hlatches, rfl, rfl, rfl, rfl, rfl,
    fun _ ha => ramRead_pinResetStandby (retainShiftRegister s) ha, fun _ _ => rfl⟩

/-! ## Tier 1 -/

/-- Settles O5. -/
theorem resetHasInvariant : Obligations.ResetHasInvariant := reset_inv

/-- Settles O8. -/
theorem stackFaultReset : Obligations.StackFaultReset := fun s => ⟨resetCommon_registers _ s, rfl⟩

/-- Settles O10: reset, mode and acceptance ruled out, the slot is that of the word at pc. -/
theorem stepRunsDecoded : Obligations.StepRunsDecoded := by
  intro s hr hn hm hk
  have hstep := step_of_noAccept hr hm hn
  exact ⟨rfl, fun i hd => hstep.trans (runInstr_of_decoded _ _ hk hd),
    fun e hd => hstep.trans (runInstr_of_undefined _ _ hk hd)⟩

/-- Settles O19: the cases of IXE and MPE. -/
theorem operandAddresses : Obligations.OperandAddresses := by
  intro s r m
  refine ⟨rfl, fun hx => ?_, fun hx => ?_, fun hx hp => ?_, fun hx hp => ?_, fun hx _ => ?_⟩
  · simp only [eaM, hx, Bool.false_eq_true, if_false]
  · simp only [eaM, hx, if_true]
  · simp only [eaInd, indirectRow, hx, hp, Bool.false_eq_true, if_false]
  · simp only [eaInd, indirectRow, hx, hp, Bool.false_eq_true, if_false, if_true]
  · simp only [eaInd, indirectRow, hx, if_true, BitVec.extractLsb'_or]

/-- Settles O35. -/
theorem pushPop : Obligations.PushPop := fun s =>
  ⟨exec_pushAR_of_level, fun he => (exec_popAR s).trans (withPop_of_entry _ (popFaults_of_entry he))⟩

/-- Settles O38. -/
theorem callInstructions : Obligations.CallInstructions := fun s addr =>
  ⟨fun ha hl => branchTarget_eq addr ▸ exec_call_of_level ha hl, exec_call_of_bit10 s, exec_callAR_of_level⟩

/-- Settles O39. -/
theorem returnInstructions : Obligations.ReturnInstructions := fun s he =>
  have hp : popFaults s = false := popFaults_of_entry he
  ⟨(exec_ret s).trans (withPop_of_entry _ hp), (exec_retsk s).trans (withPop_of_entry _ hp), exec_reti s hp⟩

/-- Settles O40: PEEK answers `rfRead`, which is a control register below 40H and data memory above. -/
theorem peekInstruction : Obligations.PeekInstruction := by
  intro s rf
  refine ⟨rfl, _, rfl, rfl, fun h => rfRead_control s .window h, fun h => rfRead_data s .window h, ?_, ?_, fun hc => ?_⟩
  · rintro rfl
    exact flagNibble_eq s.pins.int
  · rintro rfl
    exact timerMode_nibble s.timer.tmen s.timer.tmck
  · obtain ⟨hch, hvref, hcmp, hcidi⟩ := ctrlRead_comparator .window hc
    refine ⟨?_, ?_, ?_, ?_⟩ <;> rintro rfl
    · exact hch.trans (lowPair_eq _)
    · exact hvref
    · exact hcmp.trans (comparison_nibble _ _)
    · exact hcidi

/-- Settles O42: each register's arm writes its bits; any other address has none. -/
theorem pokeControlRegisters : Obligations.PokeControlRegisters := fun s =>
  ⟨fun hsp => congrArg Host.Outcome.next (writeSp_of_legal s hsp), rfl, rfl, rfl, rfl, rfl, rfl, rfl, rfl, rfl, rfl,
    rfl, rfl, fun _ hlt hrf => (exec_poke_control s hlt).trans (ctrlWrite_of_unused s s.wr hrf)⟩

/-- Settles O44: the arms of the four registers on the two kinds of part. -/
theorem pokeComparator : Obligations.PokeComparator := by
  intro s
  refine ⟨fun hc rf hrf => ?_, fun hc => ⟨?_, ?_, ?_, ?_⟩⟩
  · simp only [List.mem_cons, List.not_mem_nil, or_false] at hrf
    rcases hrf with rfl | rfl | rfl | rfl <;> exact congrArg Host.Outcome.next (onComparator_absent _ hc)
  all_goals exact congrArg Host.Outcome.next (onComparator_present _ hc)

/-- Settles O45. -/
theorem pokeSerial : Obligations.PokeSerial := by
  intro s
  refine ⟨fun h => ?_, fun hts hw => ?_, fun hw hen hts => ?_, fun hw hen hts => ?_, fun hw => ?_, fun hw hen => ?_⟩
  · exact writeSioen_of_legal h
  · exact if_pos (by rw [hts, hw]; rfl)
  · refine (writeSerialMode_of_legal (.inr hen)).trans ?_
    rw [hw]
    exact congrArg Host.Outcome.next (writeSiots_start hts)
  · refine (writeSerialMode_of_legal (.inr hen)).trans ?_
    rw [hw]
    exact congrArg Host.Outcome.next (writeSiots_running hts)
  · refine (writeSerialMode_of_legal (.inl hw)).trans ?_
    rw [hw]
    rfl
  · exact if_pos (by rw [hw, hen]; rfl)

/-- Settles O49: the three values of the delay. -/
theorem interruptInstructions : Obligations.InterruptInstructions :=
  fun s => ⟨rfl, rfl, by simp [tickEi], by simp [tickEi], rfl⟩

/-- Settles O50. -/
theorem haltInstruction : Obligations.HaltInstruction := by
  intro s h
  refine ⟨fun f => ?_, fun hd hrel => ?_, fun hd hrel => ?_, fun hd => ?_⟩
  · simp only [haltRelease, Bool.or_eq_true, Bool.and_eq_true, or_assoc]
  · rw [exec_halt_of_defined s ((halt_defined_iff h).1 hd), if_pos hrel]
  · rw [exec_halt_of_defined s ((halt_defined_iff h).1 hd), if_neg (by rw [hrel]; exact Bool.false_ne_true)]
    rfl
  · exact exec_halt_of_reserved s (by rwa [halt_defined_iff, Bool.not_eq_false] at hd)

/-- Settles O51. -/
theorem stopInstruction : Obligations.StopInstruction := by
  intro s
  refine ⟨fun c f => ?_, fun hrel => ?_, fun hrel => ⟨enterStop 8 s, ?_, rfl, fun hb => ?_⟩, fun c h0 h8 => ?_⟩
  · simp only [stopRelease, Bool.or_eq_true, Bool.and_eq_true]
  · rw [exec_stop_8, if_pos hrel]
  · rw [exec_stop_8, if_neg (by rw [hrel]; exact Bool.false_ne_true)]
  · exact if_neg (by rw [hb]; exact Nat.lt_irrefl 0)
  · exact exec_stop_of_reserved s h0 h8

end Sys2Proof.Certificates
end

section
/-! PROOFS of the memory family (1): program memory, the guard of Table 7-1, the data buffer with GET and PUT, and the
control registers as a write leaves them for a read. -/
namespace Sys2Proof.Machine

/-! ## Program memory (R101) -/

/-- Mounted program memory reads the word placed at pc. -/
theorem romRead_withFetchWord_pc {s : State} (nbits w : Nat) (h : s.pc.toNat ≤ s.chip.part.romLast) :
    romRead (s.withFetchWord nbits w) s.pc = BitVec.ofNat 16 w :=
  (if_pos h).trans (cellRead_cellWrite_same romDefault _ _ s.rom)

/-- Placing a word at pc leaves what every other address reads. -/
theorem romRead_withFetchWord_other {s : State} {a : CodeAddr} (nbits w : Nat) (h : a ≠ s.pc) :
    romRead (s.withFetchWord nbits w) a = romRead s a := by
  have hn : a.toNat ≠ s.pc.toNat := fun e => h (BitVec.eq_of_toNat_eq e)
  have hcell := cellRead_cellWrite_other romDefault (BitVec.ofNat 16 w) s.rom hn
  unfold romRead
  exact if_congr Iff.rfl hcell rfl

/-- Unmounted program memory reads FFFFH. -/
theorem romRead_unmounted {s : State} {a : CodeAddr} (h : s.chip.part.romLast < a.toNat) : romRead s a = 0xFFFF :=
  if_neg (Nat.not_le_of_lt h)

/-! ## Table 7-1 (R115, R118) -/

/-- In the stuck case the guard faults, whatever it guards. -/
theorem tableGuard_stuck {s : State} (act : Answer State) (h : ¬ SettingOpen s) :
    tableGuard s act = .fault .settingDisabled := by
  simp only [SettingOpen, not_or, Bool.not_eq_false] at h
  obtain ⟨hixe, hmpe⟩ := h
  exact if_pos (by rw [hixe, hmpe]; rfl)

/-- Every instruction of Table 7-1 executes under the guard. -/
theorem exec_of_inTable71 {i : Instr} (s : State) (h : inTable71 i = true) : ∃ act, exec i s = tableGuard s act := by
  cases i with
  | addRM | addMI | addcRM | addcMI | subRM | subMI | subcRM | subcMI => exact ⟨_, rfl⟩
  | orRM | orMI | andRM | andMI | xorRM | xorMI => exact ⟨_, rfl⟩
  | skt | skf | ske | skne | skge | sklt => exact ⟨_, rfl⟩
  | ld | st | movIndM | movMInd | movMI => exact ⟨_, rfl⟩
  | _ => cases h

/-- A guarded store completes outside the stuck case and stores its nibble. -/
theorem tableGuard_memWrite {s : State} (hs : SettingOpen s) (dest : DataAddr) (v : Nibble) :
    ∃ t, tableGuard s (.next (memWrite s dest v)) = .next t ∧ StoresNibble s dest v t :=
  ⟨_, tableGuard_open _ hs.guard, memWrite_storesNibble s dest v⟩

/-! ## The data buffer (R52, R131, R132) -/

/-- The high half of DBF, DBF3 : DBF2. -/
def dbfHigh (s : State) : Byte := ramRead s.ram 0x0C ++ ramRead s.ram 0x0D

/-- The data buffer is its two halves. -/
theorem dbfRead_eq (s : State) : dbfRead s = dbfHigh s ++ dbfLow s := BitVec.append_assoc

/-- The high half as the bits 15 to 8 of the data buffer. -/
theorem dbfHigh_eq (s : State) : dbfHigh s = (dbfRead s).extractLsb' 8 8 := by
  rw [dbfRead_eq, BitVec.extractLsb'_append_eq_left]

/-- The low half as the bits 7 to 0 of the data buffer. -/
theorem dbfLow_eq (s : State) : dbfLow s = (dbfRead s).extractLsb' 0 8 := by
  rw [dbfRead_eq, BitVec.extractLsb'_append_eq_right]

/-- A write of the low half leaves the high half. -/
theorem dbfHigh_dbfWriteLow (v : Byte) (s : State) : dbfHigh (dbfWriteLow v s) = dbfHigh s := by
  simp only [dbfHigh, dbfWriteLow_ram, ramRead_ramWrite_other _ _ (show 0x0C ≠ 0x0E by decide),
    ramRead_ramWrite_other _ _ (show 0x0C ≠ 0x0F by decide), ramRead_ramWrite_other _ _ (show 0x0D ≠ 0x0E by decide),
    ramRead_ramWrite_other _ _ (show 0x0D ≠ 0x0F by decide)]

/-- A write of the low half is read back. -/
theorem dbfLow_dbfWriteLow (v : Byte) (s : State) : dbfLow (dbfWriteLow v s) = v := by
  rw [dbfLow, dbfWriteLow_ram, ramRead_ramWrite_same, ramRead_ramWrite_other _ _ (by decide), ramRead_ramWrite_same]
  exact BitVec.extractLsb'_append_extractLsb'

/-- The data buffer after a write of its low half (R131). -/
theorem dbfRead_dbfWriteLow (v : Byte) (s : State) :
    dbfRead (dbfWriteLow v s) = (dbfRead s).extractLsb' 8 8 ++ v := by
  rw [dbfRead_eq, dbfHigh_dbfWriteLow, dbfLow_dbfWriteLow, dbfHigh_eq]

/-- A write of the whole data buffer is read back (R132). -/
theorem dbfRead_dbfWrite (v : Word) (s : State) : dbfRead (dbfWrite v s) = v := by
  have hhigh : dbfHigh { s with ram := ramWrite 0x0D (v.extractLsb' 8 4) (ramWrite 0x0C (v.extractLsb' 12 4) s.ram) } =
      v.extractLsb' 8 8 := by
    rw [dbfHigh, ramRead_ramWrite_same, ramRead_ramWrite_other _ _ (by decide), ramRead_ramWrite_same]
    exact BitVec.extractLsb'_append_extractLsb'_eq_extractLsb' rfl
  rw [dbfWrite, dbfRead_dbfWriteLow, ← dbfHigh_eq, hhigh]
  exact BitVec.extractLsb'_append_extractLsb'

/-- A write of one nibble of the data buffer writes the data buffer only. -/
theorem ramWrite_buffer {a : Nat} (v : Nibble) (s : State) (ha : a ∈ dbfAddrs) :
    WritesBufferOnly s { s with ram := ramWrite a v s.ram } :=
  ⟨rfl, fun _ hb => ramRead_ramWrite_other v s.ram fun e => hb (e ▸ ha)⟩

/-- Two writes of the data buffer only are one. -/
theorem WritesBufferOnly.trans {s t u : State} (hst : WritesBufferOnly s t) (htu : WritesBufferOnly t u) :
    WritesBufferOnly s u := by
  obtain ⟨hframe, hram⟩ := hst
  obtain ⟨hframe', hram'⟩ := htu
  refine ⟨?_, fun a ha => (hram' a ha).trans (hram a ha)⟩
  rw [hframe] at hframe'
  exact hframe'

/-- A write of the low half writes the data buffer only. -/
theorem dbfWriteLow_buffer (v : Byte) (s : State) : WritesBufferOnly s (dbfWriteLow v s) :=
  (ramWrite_buffer (a := 0x0E) _ s (by decide)).trans (ramWrite_buffer (a := 0x0F) _ _ (by decide))

/-- A write of the whole data buffer writes the data buffer only. -/
theorem dbfWrite_buffer (v : Word) (s : State) : WritesBufferOnly s (dbfWrite v s) :=
  ((ramWrite_buffer (a := 0x0C) _ s (by decide)).trans (ramWrite_buffer (a := 0x0D) _ _ (by decide))).trans
    (dbfWriteLow_buffer _ _)

/-! ## The peripheral registers (R281, R282) -/

/-- Whatever is read from a peripheral address, the read writes the data buffer only. -/
theorem peripheralGet_buffer (p : DataAddr) (s : State) : WritesBufferOnly s (peripheralGet p s) := by
  unfold peripheralGet
  split
  · exact dbfWriteLow_buffer _ s
  · exact dbfWriteLow_buffer _ s
  · exact dbfWriteLow_buffer _ s
  · exact dbfWrite_buffer _ s
  · exact dbfWrite_buffer _ s

/-- PUT to TMM with another value than 00H (R403). -/
theorem peripheralPut_tmm {s : State} (h : dbfLow s ≠ 0) :
    peripheralPut 0x03 s = .next { s with timer := { s.timer with tmm := dbfLow s } } := if_neg h

/-- PUT to TMM with 00H is refused (R403). -/
theorem peripheralPut_tmm_zero {s : State} (h : dbfLow s = 0) : peripheralPut 0x03 s = .refused .timerModuloZero :=
  if_pos h

/-- A write to SIOSFR while no transfer runs (R432). -/
theorem writeShiftRegister_idle {s : State} (v : Byte) (h : s.serial.siots = false) :
    writeShiftRegister v s = { s with serial := { s.serial with siosfr := v } } := by
  simp only [writeShiftRegister, h, Bool.false_eq_true, if_false]

/-- TMC and the unassigned peripheral addresses take nothing (R133). -/
theorem peripheralPut_of_unwritten {p : DataAddr} (s : State) (h : p ∉ [0x01, 0x03, 0x40]) :
    peripheralPut p s = .next s := by
  simp only [List.mem_cons, ← BitVec.toNat_inj, not_or] at h
  unfold peripheralPut
  split
  case h_4 => rfl
  all_goals next hp => simp [hp] at h

/-! ## The register file after a write to it (R60, R125, R126) -/

/-- POKE from 40H on writes data memory (R126). -/
theorem exec_poke_data {rf : DataAddr} (s : State) (h : 0x40 ≤ rf.toNat) :
    exec (.poke rf) s = .next (memWrite s rf s.wr) := if_neg (Nat.not_le_of_lt h)

/-- The control registers whose bits a POKE stores, with the bits stored (R60). -/
def storingMasks : List (DataAddr × Nibble) :=
  [(0x01, 0x7), (0x0A, 0x1), (0x10, 0x1), (0x11, 0xB), (0x12, 0x1), (0x1A, 0xF), (0x1F, 0x3), (0x24, 0x1), (0x2F, 0x7),
    (0x32, 0x3), (0x33, 0xF), (0x34, 0xF), (0x35, 0xF), (0x3D, 0x1), (0x3E, 0x1), (0x3F, 0x1)]

/-- The registers of `storingMasks` lie below 40H. -/
theorem storingMasks_control : ∀ c ∈ storingMasks, c.1.toNat < 0x40 := by simp [storingMasks]

/-- A flag keeps bit 0 of its nibble. -/
theorem flagNibble_stored (v : Nibble) : flagNibble (v.getLsbD 0) = v &&& 0x1 := by revert v; decide

/-- A 2-bit field keeps the bits 1 and 0 of its nibble. -/
theorem lowPair_stored (v : Nibble) : lowPair (v.extractLsb' 0 2) = v &&& 0x3 := by revert v; decide

/-- SP keeps the bits 2 to 0 of its nibble. -/
theorem spNibble_stored (v : Nibble) : 0#1 ++ v.extractLsb' 0 3 = v &&& 0x7 := by revert v; decide

/-- The enable flags keep the bits 2 to 0 of their nibble. -/
theorem enableNibble_stored (v : Nibble) :
    nibble false (v.getLsbD 2) (v.getLsbD 1) (v.getLsbD 0) = v &&& 0x7 := by revert v; decide

/-- The timer mode register keeps TMEN and TMCK (R64). -/
theorem timerNibble_stored (v : Nibble) :
    nibble (v.getLsbD 3) false ((v.extractLsb' 0 2).getLsbD 1) ((v.extractLsb' 0 2).getLsbD 0) = v &&& 0xB := by
  revert v; decide

/-- The serial mode register keeps its whole nibble (R66). -/
theorem serialNibble_stored (v : Nibble) :
    nibble (v.getLsbD 3) (v.getLsbD 2) ((v.extractLsb' 0 2).getLsbD 1) ((v.extractLsb' 0 2).getLsbD 0) = v &&& 0xF := by
  revert v; decide

/-- A whole nibble is kept. -/
theorem nibble_stored (v : Nibble) : v = v &&& 0xF := by revert v; decide

/-- SP reads back what a write that raises no stack fault stored (R33). -/
theorem ctrlRead_writeSp {v : Nibble} (s : State) (site : Draw) (h : v.toNat % 8 ≤ 5) :
    ctrlRead (writeSp v s) site 0x01 = v &&& 0x7 := by
  rw [writeSp_of_legal s h]
  exact spNibble_stored v

/-- SIOEN reads back what a write that completes stored (R61). -/
theorem ctrlRead_writeSioen {v : Nibble} {s t : State} (site : Draw) (h : writeSioen v s = .next t) :
    ctrlRead t site 0x0A = v &&& 0x1 := by
  unfold writeSioen at h
  split at h
  · cases h
  · obtain rfl := Host.Outcome.next.inj h
    exact flagNibble_stored v

/-- The timer mode register reads back TMEN and TMCK, whatever the write did to the count (R407). -/
theorem ctrlRead_writeTimerMode (v : Nibble) (s : State) (site : Draw) :
    ctrlRead (writeTimerMode v s) site 0x11 = v &&& 0xB := by
  rw [writeTimerMode_frame]
  exact timerNibble_stored v

/-- SIOTS is as written, whether that starts, stops or leaves a transfer, and SIOHIZ and SIOCK stay (R433). -/
theorem writeSiots_mode (start : Bool) (s : State) :
    (writeSiots start s).serial.siots = start ∧ (writeSiots start s).serial.siohiz = s.serial.siohiz ∧
    (writeSiots start s).serial.siock = s.serial.siock := by
  cases start with
  | false => exact ⟨rfl, rfl, rfl⟩
  | true =>
    cases hts : s.serial.siots with
    | false => rw [writeSiots_start hts]; exact ⟨rfl, rfl, rfl⟩
    | true => rw [writeSiots_running hts]; exact ⟨hts, rfl, rfl⟩

/-- The serial mode register reads back what a write that completes stored (R433). -/
theorem ctrlRead_writeSerialMode {v : Nibble} {s t : State} (site : Draw) (h : writeSerialMode v s = .next t) :
    ctrlRead t site 0x1A = v &&& 0xF := by
  unfold writeSerialMode at h
  split at h
  · cases h
  · obtain rfl := Host.Outcome.next.inj h
    obtain ⟨hts, hhiz, hck⟩ := writeSiots_mode (v.getLsbD 3)
      { s with serial := { s.serial with siohiz := v.getLsbD 2, siock := v.extractLsb' 0 2 } }
    rw [← serialNibble_stored]
    show nibble _ _ _ _ = _
    rw [hts, hhiz, hck]

/-- A control register reads back the bits a completed write stored, the others as 0 (R60, R125); a write of SP must
raise no stack fault. -/
theorem ctrlRead_ctrlWrite {s t : State} {rf : DataAddr} {mask v : Nibble} (site : Draw)
    (hmask : (rf, mask) ∈ storingMasks) (hsp : rf = 0x01 → v.toNat % 8 ≤ 5) (h : ctrlWrite s rf v = .next t) :
    ctrlRead t site rf = v &&& mask := by
  simp only [storingMasks, List.mem_cons, List.not_mem_nil, or_false, Prod.mk.injEq] at hmask
  rcases hmask with ⟨rfl, rfl⟩ | ⟨rfl, rfl⟩ | ⟨rfl, rfl⟩ | ⟨rfl, rfl⟩ | ⟨rfl, rfl⟩ | ⟨rfl, rfl⟩ | ⟨rfl, rfl⟩ |
    ⟨rfl, rfl⟩ | ⟨rfl, rfl⟩ | ⟨rfl, rfl⟩ | ⟨rfl, rfl⟩ | ⟨rfl, rfl⟩ | ⟨rfl, rfl⟩ | ⟨rfl, rfl⟩ | ⟨rfl, rfl⟩ | ⟨rfl, rfl⟩
  · obtain rfl := Host.Outcome.next.inj h
    exact ctrlRead_writeSp s site (hsp rfl)
  · exact ctrlRead_writeSioen site h
  · obtain rfl := Host.Outcome.next.inj h
    exact flagNibble_stored v
  · obtain rfl := Host.Outcome.next.inj h
    exact ctrlRead_writeTimerMode v s site
  · obtain rfl := Host.Outcome.next.inj h
    exact flagNibble_stored v
  · exact ctrlRead_writeSerialMode site h
  all_goals obtain rfl := Host.Outcome.next.inj h
  · exact lowPair_stored v
  · exact flagNibble_stored v
  · exact enableNibble_stored v
  · exact lowPair_stored v
  · exact nibble_stored v
  · exact nibble_stored v
  · exact nibble_stored v
  · exact flagNibble_stored v
  · exact flagNibble_stored v
  · exact flagNibble_stored v

end Sys2Proof.Machine
end

section
/-! PROOFS of the memory family (2): the statements, by tier, assembled from the laws above. -/
namespace Sys2Proof.Certificates
open Sys2Proof.Machine

/-! ## Tier 2 -/

/-- Settles O21: a read at the address written, at any other, and beyond the mounted memory. -/
theorem programMemory : Obligations.ProgramMemory := by
  intro s a nbits w
  refine ⟨fun hmounted hpc => ?_, romRead_withFetchWord_other nbits w, romRead_unmounted⟩
  subst hpc
  exact romRead_withFetchWord_pc nbits w hmounted

/-- Settles O33: both moves are guarded stores. -/
theorem indirectMoves : Obligations.IndirectMoves := fun _ _ _ hs =>
  ⟨rfl, rfl, tableGuard_memWrite hs _ _, tableGuard_memWrite hs _ _⟩

/-- Settles O41: POKE from 40H on is `memWrite`, which stores one nibble. -/
theorem pokeDataMemory : Obligations.PokeDataMemory := fun s rf h =>
  ⟨memWrite s rf s.wr, exec_poke_data s h, memWrite_storesNibble s rf s.wr⟩

/-- Settles O43: POKE and PEEK below 40H are `ctrlWrite` and `ctrlRead` of one register. -/
theorem peekAfterPoke : Obligations.PeekAfterPoke := by
  intro s t rf mask hmask hsp hpoke
  have hcontrol : rf.toNat < 0x40 := storingMasks_control (rf, mask) hmask
  have hwrite : ctrlWrite s rf s.wr = .next t := (exec_poke_control s hcontrol).symm.trans hpoke
  have hlegal : rf = 0x01 → s.wr.toNat % 8 ≤ 5 := fun hrf => by
    by_contra hgt
    exact hsp ⟨hrf, by omega⟩
  exact ⟨{ t with wr := rfRead t .window rf }, rfl,
    (rfRead_control t .window hcontrol).trans (ctrlRead_ctrlWrite .window hmask hlegal hwrite)⟩

/-- Settles O47: each register's arm writes one half of the data buffer or all of it. -/
theorem getInstruction : Obligations.GetInstruction := by
  intro s p
  refine ⟨peripheralGet p s, rfl, peripheralGet_buffer p s, ?_, ?_, ?_, ?_⟩ <;> rintro rfl
  · exact dbfRead_dbfWriteLow s.serial.siosfr s
  · exact dbfRead_dbfWriteLow s.timer.tmc s
  · rw [← dbfHigh_eq, ← dbfHigh_eq]
    exact dbfHigh_dbfWriteLow _ s
  · exact dbfRead_dbfWrite _ s

/-! ## Tier 1 -/

/-- Settles O24: the guard stops every instruction of the table. -/
theorem settingDisabled : Obligations.SettingDisabled := by
  intro i s hi hs
  obtain ⟨act, hact⟩ := exec_of_inTable71 s hi
  exact hact.trans (tableGuard_stuck act hs)

/-- Settles O48: one arm for each register that takes something; DBF1 : DBF0 is the low half of the buffer. -/
theorem putInstruction : Obligations.PutInstruction := by
  intro s
  rw [← dbfLow_eq]
  refine ⟨fun hts => ?_, fun _ => ⟨writeShiftRegister (dbfLow s) s, rfl, rfl⟩, peripheralPut_tmm, peripheralPut_tmm_zero,
    rfl, fun _ hp => peripheralPut_of_unwritten s hp⟩
  exact congrArg Host.Outcome.next (writeShiftRegister_idle (dbfLow s) hts)

end Sys2Proof.Certificates
end

section
/-! PROOFS of the encoding family (1): what the decoder answers to every word, said once for each of its parts: which words
it rejects, by which case of R157, and that any other answer is a well-formed instruction with the word read. -/
namespace Sys2Proof

/-! ## The rule for undefined words (R157) -/

/-- R157 (c): a field that every instruction of the sub-opcode fixes has another value. -/
def FixedFieldsDiffer (w : Word) : Prop :=
  w.f2 ∈ [0x1#4, 0x4#4, 0x5#4, 0x8#4, 0x9#4, 0xC#4, 0xD#4] ∧ ¬ (w.f1 = 0 ∧ w.f3 = 0) ∨
  w.f2 = 7 ∧ w.f1 ≠ 0 ∨
  w.f2 = 0xE ∧ ¬ (w.f1 ∈ [0#3, 1#3, 4#3] ∧ w.f3 = 0) ∨
  w.f2 = 0xF ∧ ¬ (w.f1 ∈ [0#3, 1#3, 4#3] ∧ w.f3 = 0 ∨ w.f1 = 2 ∨ w.f1 = 3)

/-- R157: the words that each name rejects. -/
def UndefinedBy (w : Word) : DecodeError → Prop
  | .unassignedOpcode => w.op ∈ [0x0D#5, 0x0E#5, 0x0F#5, 0x17#5]
  | .unassignedSubOpcode => w.op = 7 ∧ (w.f2 = 0 ∨ w.f2 = 6)
  | .fixedFieldMismatch => w.op = 7 ∧ FixedFieldsDiffer w
  | .branchOperandBit10 => (w.op = 0x0C ∨ w.op = 0x1C) ∧ w.getLsbD 10 = true

/-- The one rejection `e`, under the condition `c`. -/
def RejectIf (c : Prop) (e : DecodeError) : DecodeError → Prop := fun e' => c ∧ e' = e

/-- Under an unassigned opcode only case (a) of R157 applies. -/
theorem undefinedBy_of_unassigned {w : Word} (ho : w.op ∈ [0x0D#5, 0x0E#5, 0x0F#5, 0x17#5]) (e : DecodeError) :
    RejectIf True .unassignedOpcode e ↔ UndefinedBy w e := by
  have hassigned : ∀ o ∈ [0x0D#5, 0x0E#5, 0x0F#5, 0x17#5], o ≠ 7 ∧ o ≠ 0x0C ∧ o ≠ 0x1C := by decide
  obtain ⟨h7, hbr, hcall⟩ := hassigned w.op ho
  cases e <;> simp_all [RejectIf, UndefinedBy]

/-- Under an unassigned sub-opcode only case (b) of R157 applies. -/
theorem undefinedBy_of_unassignedSub {w : Word} (h7 : w.op = 7) (h2 : w.f2 = 0 ∨ w.f2 = 6) (e : DecodeError) :
    RejectIf True .unassignedSubOpcode e ↔ UndefinedBy w e := by
  rcases h2 with h2 | h2 <;> cases e <;> simp [RejectIf, UndefinedBy, FixedFieldsDiffer, h7, h2]

/-- Under an assigned sub-opcode only case (c) of R157 applies. -/
theorem undefinedBy_of_assignedSub {w : Word} (h7 : w.op = 7) (h2 : ¬ (w.f2 = 0 ∨ w.f2 = 6)) (e : DecodeError) :
    RejectIf (FixedFieldsDiffer w) .fixedFieldMismatch e ↔ UndefinedBy w e := by
  cases e <;> simp_all [RejectIf, UndefinedBy]

/-- Under the opcodes of BR and CALL only case (d) of R157 applies. -/
theorem undefinedBy_of_branch {w : Word} (ho : w.op = 0x0C ∨ w.op = 0x1C) (e : DecodeError) :
    RejectIf (w.getLsbD 10 = true) .branchOperandBit10 e ↔ UndefinedBy w e := by
  rcases ho with ho | ho <;> cases e <;> simp [RejectIf, UndefinedBy, ho]

/-! ## The answer to a word (R155) -/

/-- The answer `a` to the word `w` rejects it by `e` exactly if `bad e`, and an instruction it gives is well formed and has
the word `w`. -/
structure Answers (w : Word) (bad : DecodeError → Prop) (a : Except DecodeError Instr) : Prop where
  error_iff : ∀ e, a = .error e ↔ bad e
  encodes : ∀ i, a = .ok i → encode i = w ∧ i.wellFormed = true

/-- The condition of an answer may be replaced by an equivalent one. -/
theorem Answers.congr {w : Word} {bad bad' : DecodeError → Prop} {a : Except DecodeError Instr} (h : Answers w bad a)
    (hbad : ∀ e, bad e ↔ bad' e) : Answers w bad' a := ⟨fun e => (h.error_iff e).trans (hbad e), h.encodes⟩

/-- A well-formed instruction with the word `w` answers it, where nothing rejects the word. -/
theorem answers_ok {w : Word} {bad : DecodeError → Prop} {i : Instr} (hbad : ∀ e, ¬ bad e) (hw : encode i = w)
    (hi : i.wellFormed = true) : Answers w bad (.ok i) where
  error_iff := fun e => by simp [hbad e]
  encodes := by rintro _ ⟨⟩; exact ⟨hw, hi⟩

/-- A rejection answers the word, where its condition holds. -/
theorem answers_error {w : Word} {c : Prop} {e : DecodeError} (hc : c) : Answers w (RejectIf c e) (.error e) where
  error_iff := fun _ => by simp [RejectIf, hc, eq_comm]
  encodes := by rintro _ ⟨⟩

/-- A rejection whose condition fails rejects nothing. -/
theorem not_rejectIf {c : Prop} {e : DecodeError} (hc : ¬ c) (e' : DecodeError) : ¬ RejectIf c e e' := fun h => hc h.1

/-! ## Format MS (R154) -/

/-- The row part of the address of PEEK, POKE, GET and PUT (R165, R166). -/
theorem fieldRf_high (w : Word) : w.fieldRf.extractLsb' 4 3 = w.f1 := BitVec.extractLsb'_append_eq_left

/-- The column part of the address of PEEK, POKE, GET and PUT (R165, R166). -/
theorem fieldRf_low (w : Word) : w.fieldRf.extractLsb' 0 4 = w.f3 := BitVec.extractLsb'_append_eq_right

/-- An instruction of format MS has the word read, where their fields agree. -/
theorem encode_eq_of_fields {w : Word} {i : Instr} {f1 : BitVec 3} {sub f3 : BitVec 4}
    (hi : encode i = encodeMS f1 sub f3) (h7 : w.op = 7) (h1 : w.f1 = f1) (h2 : w.f2 = sub) (h3 : w.f3 = f3) : encode i = w := by
  subst h1 h2 h3
  exact hi.trans (encodeMS_fields w h7)

/-- PEEK, POKE, GET and PUT have the word read, where sub-opcode and address agree. -/
theorem encode_eq_of_fieldRf {w : Word} {i : Instr} {sub : BitVec 4} (hi : encode i = encodeRf sub w.fieldRf)
    (h7 : w.op = 7) (h2 : w.f2 = sub) : encode i = w :=
  encode_eq_of_fields hi h7 (fieldRf_high w).symm h2 (fieldRf_low w).symm

/-- An instruction that fixes f1 and f3 rejects every other value of the two. -/
theorem decodeFixed_answers {w : Word} {i : Instr} {f1 : BitVec 3} {sub f3 : BitVec 4}
    (hi : encode i = encodeMS f1 sub f3) (hwf : i.wellFormed = true) (h7 : w.op = 7) (h2 : w.f2 = sub) :
    Answers w (RejectIf (¬ (w.f1 = f1 ∧ w.f3 = f3)) .fixedFieldMismatch) (decodeFixed w f1 f3 i) := by
  unfold decodeFixed
  split
  case isTrue h => exact answers_ok (not_rejectIf (not_not.2 h)) (encode_eq_of_fields hi h7 h.1 h2 h.2) hwf
  case isFalse h => exact answers_error h

/-- Sub-opcode 1110: the three returns, all with f3 fixed. -/
theorem decodeReturn_answers {w : Word} (h7 : w.op = 7) (h2 : w.f2 = 0xE) :
    Answers w (RejectIf (¬ (w.f1 ∈ [0#3, 1#3, 4#3] ∧ w.f3 = 0)) .fixedFieldMismatch) (decodeReturn w) := by
  unfold decodeReturn
  split
  case h_4 h0 h1 h4 =>
    rw [imp_false] at h0 h1 h4
    exact answers_error (by simp [← BitVec.toNat_inj, h0, h1, h4])
  all_goals
    next h1 =>
    refine (decodeFixed_answers rfl rfl h7 h2).congr fun e => ?_
    simp [RejectIf, ← BitVec.toNat_inj, h1]

/-- Sub-opcode 1111: EI, DI and NOP with f3 fixed, STOP and HALT with a free operand. -/
theorem decodeControl_answers {w : Word} (h7 : w.op = 7) (h2 : w.f2 = 0xF) :
    Answers w (RejectIf (¬ (w.f1 ∈ [0#3, 1#3, 4#3] ∧ w.f3 = 0 ∨ w.f1 = 2 ∨ w.f1 = 3)) .fixedFieldMismatch)
      (decodeControl w) := by
  unfold decodeControl
  split
  case h_3 h1 => -- STOP
    have h1 : w.f1 = 2 := BitVec.eq_of_toNat_eq h1
    exact answers_ok (not_rejectIf (by simp [h1])) (encode_eq_of_fields rfl h7 h1 h2 rfl) rfl
  case h_4 h1 => -- HALT
    have h1 : w.f1 = 3 := BitVec.eq_of_toNat_eq h1
    exact answers_ok (not_rejectIf (by simp [h1])) (encode_eq_of_fields rfl h7 h1 h2 rfl) rfl
  case h_6 h0 h1 h2 h3 h4 =>
    rw [imp_false] at h0 h1 h2 h3 h4
    exact answers_error (by simp [← BitVec.toNat_inj, h0, h1, h2, h3, h4])
  all_goals
    next h1 =>
    refine (decodeFixed_answers rfl rfl h7 h2).congr fun e => ?_
    simp [RejectIf, ← BitVec.toNat_inj, h1]

/-- The two sub-opcodes that R154 does not assign. -/
theorem decodeMS_of_unassigned {w : Word} (h2 : w.f2 = 0 ∨ w.f2 = 6) : decodeMS w = .error .unassignedSubOpcode := by
  rcases h2 with h2 | h2 <;> simp [decodeMS, h2]

/-- The assigned sub-opcodes, by the fields they fix: none for POKE, PEEK, PUT and GET, f1 for RORC, f1 with some of f3 for
the returns and the control instructions, both for the others. -/
theorem decodeMS_answers {w : Word} (h7 : w.op = 7) (hsub : ¬ (w.f2 = 0 ∨ w.f2 = 6)) :
    Answers w (RejectIf (FixedFieldsDiffer w) .fixedFieldMismatch) (decodeMS w) := by
  unfold decodeMS
  split
  case h_2 h2 | h_3 h2 | h_9 h2 | h_10 h2 => -- POKE, PEEK, PUT, GET
    exact answers_ok (not_rejectIf (by simp [FixedFieldsDiffer, ← BitVec.toNat_inj, h2]))
      (encode_eq_of_fieldRf rfl h7 (BitVec.eq_of_toNat_eq h2)) rfl
  case h_6 h2 => -- RORC
    have h2 : w.f2 = 7 := BitVec.eq_of_toNat_eq h2
    split
    case isTrue h1 =>
      exact answers_ok (not_rejectIf (by simp [FixedFieldsDiffer, h2, h1])) (encode_eq_of_fields rfl h7 h1 h2 rfl) rfl
    case isFalse h1 => exact answers_error (by simpa [FixedFieldsDiffer, h2] using h1)
  case h_13 h2 =>
    have h2 : w.f2 = 0xE := BitVec.eq_of_toNat_eq h2
    exact (decodeReturn_answers h7 h2).congr fun e => by simp [RejectIf, FixedFieldsDiffer, h2]
  case h_14 h2 =>
    have h2 : w.f2 = 0xF := BitVec.eq_of_toNat_eq h2
    exact (decodeControl_answers h7 h2).congr fun e => by simp [RejectIf, FixedFieldsDiffer, h2]
  case h_15 => -- no other sub-opcode is assigned
    refine absurd ?_ hsub
    simp only [imp_false] at *
    bv_omega
  all_goals
    next h2 =>
    refine Answers.congr (decodeFixed_answers rfl rfl h7 (BitVec.eq_of_toNat_eq h2)) fun e => ?_
    simp [RejectIf, FixedFieldsDiffer, ← BitVec.toNat_inj, h2]

/-! ## Format AD (R163) and the whole decoder -/

/-- BR and CALL reject an operand with bit 10 set. -/
theorem decodeAD_answers {w : Word} {op : BitVec 5} {i : BranchOperand → Instr}
    (hi : ∀ a, encode (i a) = encodeAD op a) (hwf : ∀ a, (i a).wellFormed = !a.getLsbD 10) (ho : w.op = op) :
    Answers w (RejectIf (w.getLsbD 10 = true) .branchOperandBit10) (decodeAD w i) := by
  subst ho
  have hbit : w.fieldAddr.getLsbD 10 = w.getLsbD 10 := by simp [Word.fieldAddr, -BitVec.getLsbD_eq_getElem]
  rw [decodeAD, hbit]
  split
  case isTrue h => exact answers_error h
  case isFalse h =>
    have hwell : (i w.fieldAddr).wellFormed = true := by rw [hwf, hbit, Bool.eq_false_of_not_eq_true h]; rfl
    exact answers_ok (not_rejectIf h) ((hi _).trans (encodeAD_fields w)) hwell

/-- R155 and R157 together, by the primary opcode: formats MS and AD, the four unassigned opcodes, and formats RM and MI,
where every word is defined. -/
theorem decode_answers (w : Word) : Answers w (UndefinedBy w) (decode w) := by
  unfold decode
  split
  case h_8 ho =>
    have ho : w.op = 7 := BitVec.eq_of_toNat_eq ho
    by_cases hsub : w.f2 = 0 ∨ w.f2 = 6
    · rw [decodeMS_of_unassigned hsub]
      exact (answers_error trivial).congr (undefinedBy_of_unassignedSub ho hsub)
    · exact (decodeMS_answers ho hsub).congr (undefinedBy_of_assignedSub ho hsub)
  case h_13 ho => -- BR
    have ho : w.op = 0x0C := BitVec.eq_of_toNat_eq ho
    exact (decodeAD_answers (fun _ => rfl) (fun _ => rfl) ho).congr (undefinedBy_of_branch (.inl ho))
  case h_25 ho => -- CALL
    have ho : w.op = 0x1C := BitVec.eq_of_toNat_eq ho
    exact (decodeAD_answers (fun _ => rfl) (fun _ => rfl) ho).congr (undefinedBy_of_branch (.inr ho))
  case h_29 =>
    refine (answers_error trivial).congr (undefinedBy_of_unassigned ?_)
    simp only [List.mem_cons, List.not_mem_nil, or_false, ← BitVec.toNat_inj, BitVec.toNat_ofNat, imp_false] at *
    omega
  all_goals
    next ho =>
    refine answers_ok (fun e => ?_) ?_ rfl
    · cases e <;> simp [UndefinedBy, ← BitVec.toNat_inj, ho]
    · exact (congrArg (encodeM · w.fieldM w.f3) (BitVec.eq_of_toNat_eq ho)).symm.trans (encodeM_fields w)

/-! ## Decoding an encoding (R152) -/

/-- A word of format AD gives back an operand with bit 10 clear. -/
theorem decodeAD_encodeAD {addr : BranchOperand} (op : BitVec 5) (i : BranchOperand → Instr)
    (h : addr.getLsbD 10 = false) : decodeAD (encodeAD op addr) i = .ok (i addr) := by
  simp [decodeAD, h, -BitVec.getLsbD_eq_getElem]

/-- Decoding reads back every field the encoding wrote, format by format. -/
theorem decode_encode {i : Instr} (h : i.wellFormed = true) : decode (encode i) = .ok i := by
  cases i with
  -- format AD
  | br addr | call addr =>
    have hbit : addr.getLsbD 10 = false := by simpa [Instr.wellFormed] using h
    simp [encode, decode, decodeAD_encodeAD _ _ hbit]
  -- format MS
  | peek a | poke a | get a | put a => simp [encode, decode, decodeMS]
  | stop c | halt c | rorc c => simp [encode, decode, decodeMS, decodeControl]
  | incAR | incIX | movt | pushAR | popAR | brAR | callAR | ret | retsk | reti | ei | di | nop => decide
  -- formats RM and MI
  | _ => simp [encode, decode]

end Sys2Proof
end

section
/-! PROOFS of the encoding family (2): what BR answers, by bit 10 of its operand. -/
namespace Sys2Proof.Machine

/-- BR to an address that has an encoding. -/
theorem exec_br_of_encodable {addr : BranchOperand} (s : State) (h : addr.getLsbD 10 = false) :
    exec (.br addr) s = .next { s with pc := branchTarget addr } := if_neg (by rw [h]; decide)

/-- BR with operand bit 10 set is refused (R163). -/
theorem exec_br_of_bit10 {addr : BranchOperand} (s : State) (h : addr.getLsbD 10 = true) :
    exec (.br addr) s = .refused .undefinedEncoding := if_pos h

end Sys2Proof.Machine
end

section
/-! PROOFS of the encoding family (3): the statements, by tier, assembled from the laws above. -/
namespace Sys2Proof.Certificates
open Sys2Proof.Machine

/-! ## Tier 3 -/

/-- Settles O1, format by format. -/
theorem decodeEncode : Obligations.DecodeEncode := fun _ => decode_encode

/-! ## Tier 2 -/

/-- Settles O2: an instruction that answers a word has that word. -/
theorem encodeDecode : Obligations.EncodeDecode := fun w => (decode_answers w).encodes

/-- Settles O3: the answer to a word rejects it by the cases of R157 alone. -/
theorem undefinedWords : Obligations.UndefinedWords := fun w =>
  have h := (decode_answers w).error_iff
  ⟨h .unassignedOpcode, h .unassignedSubOpcode, h .fixedFieldMismatch, h .branchOperandBit10⟩

/-! ## Tier 1 -/

/-- Settles O37: the two values of bit 10. -/
theorem branchInstructions : Obligations.BranchInstructions := fun s addr =>
  ⟨fun h => branchTarget_eq addr ▸ exec_br_of_encodable s h, exec_br_of_bit10 s, rfl⟩

end Sys2Proof.Certificates
end

section
/-! PROOFS of the addition family (1): the ALU by the true value of the sum or difference, binary (R192) and decimal
(R195), the two INC, and the decoder on the word of a known instruction. -/
namespace Sys2Proof

/-- A word that a well-formed instruction encodes to is decoded to this instruction (R152, R155). -/
theorem decode_of_encode {i : Instr} {w : Word} (hw : encode i = w) (hi : i.wellFormed = true) : decode w = .ok i :=
  hw ▸ decode_encode hi

end Sys2Proof

namespace Sys2Proof.Machine

/-! ## The range of the true value -/

/-- A nibble, a nibble and a carry add up to 31 at most. -/
theorem sum_lt (a b : Nibble) (c : Bool) : a.toNat + b.toNat + c.toNat < 32 := by
  have hc := c.toNat_le
  omega

/-- A nibble less a nibble and a borrow lies in -16 to 15. -/
theorem difference_range (a b : Nibble) (c : Bool) :
    -16 ≤ (a.toNat : Int) - b.toNat - c.toNat ∧ (a.toNat : Int) - b.toNat - c.toNat < 16 := by
  have hc := c.toNat_le
  omega

/-! ## Binary results (R192) -/

/-- A sum is 16 times its carry and the low nibble. -/
theorem carry_nibble_value {t : Nat} (h : t < 32) : 16 * (decide (16 ≤ t)).toNat + (BitVec.ofNat 4 t).toNat = t := by
  rw [BitVec.toNat_ofNat]
  by_cases hcarry : 16 ≤ t
  · rw [decide_eq_true hcarry, Bool.toNat_true]; omega
  · rw [decide_eq_false hcarry, Bool.toNat_false]; omega

/-- A difference is the low nibble less 16 times its borrow. -/
theorem borrow_nibble_value {t : Int} (hlow : -16 ≤ t) (hhigh : t < 16) :
    ((BitVec.ofInt 4 t).toNat : Int) - 16 * ((decide (t < 0)).toNat : Int) = t := by
  rw [BitVec.toNat_ofInt]
  by_cases hborrow : t < 0
  · rw [decide_eq_true hborrow, Bool.toNat_true]; omega
  · rw [decide_eq_false hborrow, Bool.toNat_false]; omega

/-! ## Decimal results (R195) -/

/-- The results of Table 11-2 for an addition, by the true sum 0 to 31. -/
def decimalSums : List Nibble :=
  [0x0, 0x1, 0x2, 0x3, 0x4, 0x5, 0x6, 0x7, 0x8, 0x9, 0x0, 0x1, 0x2, 0x3, 0x4, 0x5, 0x6, 0x7, 0x8, 0x9,
    0xE, 0xF, 0xC, 0xD, 0xE, 0xF, 0xC, 0xD, 0xA, 0xB, 0xC, 0xD]

/-- The results of Table 11-2 for a subtraction, by the true difference -16 to 15. -/
def decimalDifferences : List Nibble :=
  [0xE, 0xF, 0xC, 0xD, 0xE, 0xF, 0x0, 0x1, 0x2, 0x3, 0x4, 0x5, 0x6, 0x7, 0x8, 0x9,
    0x0, 0x1, 0x2, 0x3, 0x4, 0x5, 0x6, 0x7, 0x8, 0x9, 0xC, 0xD, 0xE, 0xF, 0xC, 0xD]

/-- The decimal carry and result of every true sum are those of the table. -/
theorem bcdAdd_table : ∀ t < 32,
    (bcdAdd t).1 = decide (10 ≤ t) ∧ decimalSums[t]? = some (bcdAdd t).2 := by decide

/-- The decimal borrow and result of every true difference, counted from -16, are those of the table. -/
theorem bcdSub_table : ∀ n : Nat, n < 32 →
    (bcdSub ((n : Int) - 16)).1 = decide (¬ (0 ≤ (n : Int) - 16 ∧ (n : Int) - 16 ≤ 9)) ∧
      decimalDifferences[n]? = some (bcdSub ((n : Int) - 16)).2 := by decide

/-- The decimal borrow and result of a true difference are those of the table. -/
theorem bcdSub_of_range {t : Int} (hlow : -16 ≤ t) (hhigh : t < 16) :
    (bcdSub t).1 = decide (¬ (0 ≤ t ∧ t ≤ 9)) ∧ decimalDifferences[(t + 16).toNat]? = some (bcdSub t).2 := by
  have hrow := bcdSub_table (t + 16).toNat (by omega)
  have ht : ((t + 16).toNat : Int) - 16 = t := by omega
  rwa [ht] at hrow

/-! ## INC (R206, R207) -/

/-- INC AR writes AR alone. -/
theorem exec_incAR (s : State) : exec .incAR s = .next { s with ar := s.ar + 1 } := rfl

/-- INC IX writes IX alone. -/
theorem exec_incIX (s : State) : exec .incIX s = .next { s with ix := s.ix + 1 } := rfl

end Sys2Proof.Machine
end

section
/-! PROOFS of the addition family (2): the statements, all of tier 1, assembled from the laws above. -/
namespace Sys2Proof.Certificates
open Sys2Proof.Machine

/-- Settles O4: every printed word is the encoding of the instruction printed beside it (R152). -/
theorem printedWords : Obligations.PrintedWords := by
  unfold Obligations.PrintedWords
  and_intros <;> exact decode_of_encode rfl rfl

/-- Settles O22: the true value lies in the range in which one carry or borrow and a nibble hold it. -/
theorem binaryArithmetic : Obligations.BinaryArithmetic := fun a b c =>
  have ⟨hlow, hhigh⟩ := difference_range a b c
  ⟨carry_nibble_value (sum_lt a b c), borrow_nibble_value hlow hhigh⟩

/-- Settles O23: the true value lies in the range that the table lists. -/
theorem decimalArithmetic : Obligations.DecimalArithmetic := fun a b c =>
  have ⟨hlow, hhigh⟩ := difference_range a b c
  ⟨bcdAdd_table _ (sum_lt a b c), bcdSub_of_range hlow hhigh⟩

/-- Settles O27: addition of bit vectors is modulo 2 to their width. -/
theorem incrementInstructions : Obligations.IncrementInstructions := fun s =>
  ⟨⟨_, exec_incAR s, rfl, BitVec.toNat_add s.ar 1⟩, ⟨_, exec_incIX s, rfl, BitVec.toNat_add s.ix 1⟩⟩

end Sys2Proof.Certificates
end

section
/-! PROOFS of the logical family (1): what a logical instruction of each operand form stores, for every bitwise
operation. -/
namespace Sys2Proof.Machine

/-- A logical instruction of form `r, m` completes and stores its result to the general register, whatever CMP is
(R230, R232, R234, R236). -/
theorem logicRM_storesNibble (f : Nibble → Nibble → Nibble) (r : RegNum) (m : DataAddr) {s : State}
    (hs : SettingOpen s) :
    ∃ t, logicRM f r m s = .next t ∧
      StoresNibble s (generalReg s r) (f (memRead s .first (generalReg s r)) (memRead s .second (eaM s m))) t :=
  tableGuard_memWrite hs _ _

/-- A logical instruction of form `m, #n4` completes and stores its result to data memory, whatever CMP is (R231, R233,
R235, R236). -/
theorem logicMI_storesNibble (f : Nibble → Nibble → Nibble) (m : DataAddr) (n4 : Nibble) {s : State}
    (hs : SettingOpen s) :
    ∃ t, logicMI f m n4 s = .next t ∧ StoresNibble s (eaM s m) (f (memRead s .first (eaM s m)) n4) t :=
  tableGuard_memWrite hs _ _

end Sys2Proof.Machine
end

section
/-! PROOFS of the logical family (2): the statement, assembled from the laws of the two operand forms. -/
namespace Sys2Proof.Certificates
open Sys2Proof.Machine

/-- Settles O28: each form's law at the three bitwise operations. -/
theorem logicalInstructions : Obligations.LogicalInstructions := fun _ hs =>
  ⟨fun r m => ⟨rfl, rfl, rfl, logicRM_storesNibble (· ||| ·) r m hs, logicRM_storesNibble (· &&& ·) r m hs,
      logicRM_storesNibble (· ^^^ ·) r m hs⟩,
    fun m n4 => ⟨rfl, rfl, rfl, logicMI_storesNibble (· ||| ·) m n4 hs, logicMI_storesNibble (· &&& ·) m n4 hs,
      logicMI_storesNibble (· ^^^ ·) m n4 hs⟩⟩

end Sys2Proof.Certificates
end

section
/-! PROOFS of the judgment family (1): the skip and the reset of CMP of a bit judgment, for every test of the nibble. -/
namespace Sys2Proof.Machine

/-- A condition can set the skip and never takes back one that is pending (R24). -/
theorem skipWhen_eq (b : Bool) (s : State) : skipWhen b s = { s with skipNext := b || s.skipNext } := by
  cases b <;> rfl

/-- A bit judgment completes with CMP reset and the skip by its test, and changes nothing else (R240). -/
theorem judgeBits_of_open (test : Nibble → Bool) (m : DataAddr) {s : State} (hs : SettingOpen s) :
    judgeBits test m s = .next { s with
      psw := { s.psw with cmp := false },
      skipNext := test (memRead s .first (eaM s m)) || s.skipNext } := by
  rw [judgeBits, tableGuard_open _ hs.guard, skipWhen_eq]

end Sys2Proof.Machine
end

section
/-! PROOFS of the judgment family (2): the statement, assembled from the law of the bit judgment. -/
namespace Sys2Proof.Certificates
open Sys2Proof.Machine

/-- Settles O29: the bit judgment's law at the two tests, all bits of the mask 1 (R241) and all 0 (R242). -/
theorem judgementInstructions : Obligations.JudgementInstructions := fun _ m n hs =>
  ⟨rfl, rfl, judgeBits_of_open (fun v => decide (v &&& n = n)) m hs,
    judgeBits_of_open (fun v => decide (v &&& n = 0)) m hs⟩

end Sys2Proof.Certificates
end

section
/-! PROOFS of the comparison family (1): the skip and the frame of a comparison, for every test of the nibble. -/
namespace Sys2Proof.Machine

/-- A comparison completes with the skip by its test, and changes nothing else: no flag is read or written, CMP included
(R245). -/
theorem compareNibble_of_open (test : Nibble → Bool) (m : DataAddr) {s : State} (hs : SettingOpen s) :
    compareNibble test m s = .next { s with skipNext := test (memRead s .first (eaM s m)) || s.skipNext } := by
  rw [compareNibble, tableGuard_open _ hs.guard, skipWhen_eq]

/-- SKNE's law with the model's Boolean test `!=` as the decided inequality (R247). -/
theorem execSkne_of_open (m : DataAddr) (n4 : Nibble) {s : State} (hs : SettingOpen s) :
    execSkne m n4 s =
      .next { s with skipNext := decide (memRead s .first (eaM s m) ≠ n4) || s.skipNext } := by
  have hne (v : Nibble) : (v != n4) = decide (v ≠ n4) := decide_not.symm
  rw [execSkne, compareNibble_of_open _ m hs, hne]

end Sys2Proof.Machine
end

section
/-! PROOFS of the comparison family (2): the statement, assembled from the law of the comparison. -/
namespace Sys2Proof.Certificates
open Sys2Proof.Machine

/-- Settles O30: the comparison's law at the four unsigned tests, equal (R246), unequal (R247), at least (R248) and less
(R249). -/
theorem comparisonInstructions : Obligations.ComparisonInstructions := fun _ m n4 hs =>
  ⟨rfl, rfl, rfl, rfl, compareNibble_of_open (fun v => decide (v = n4)) m hs, execSkne_of_open m n4 hs,
    compareNibble_of_open (fun v => decide (n4.toNat ≤ v.toNat)) m hs,
    compareNibble_of_open (fun v => decide (v.toNat < n4.toNat)) m hs⟩

end Sys2Proof.Certificates
end

section
/-! PROOFS of the rotation family (1): the nibble RORC stores, by its bits, and what RORC answers. -/
namespace Sys2Proof.Machine

/-- A flag above the top three bits of a nibble is the nibble shifted right by one place, the flag in bit 3 (R255). -/
theorem rotated_nibble (c : Bool) (a : Nibble) :
    BitVec.ofBool c ++ a.extractLsb' 1 3 = nibble c (a.getLsbD 3) (a.getLsbD 2) (a.getLsbD 1) := by
  revert c a; decide

/-- RORC stores the rotated nibble first and writes CY afterwards, so that CY is bit 0 of the nibble read even when the
store goes to PSW (R255, D13). -/
theorem exec_rorc (s : State) (r : RegNum) :
    let a := memRead s .first (generalReg s r)
    let u := memWrite s (generalReg s r) (nibble s.psw.cy (a.getLsbD 3) (a.getLsbD 2) (a.getLsbD 1))
    exec (.rorc r) s = .next { u with psw := { u.psw with cy := a.getLsbD 0 } } := by
  intro a u
  change execRorc r s = _
  rw [execRorc, rotated_nibble]

end Sys2Proof.Machine
end

section
/-! PROOFS of the rotation family (2): the statement, assembled from RORC's equation and the law of the store. -/
namespace Sys2Proof.Certificates
open Sys2Proof.Machine

/-- Settles O31: the state between RORC's two writes is the one the store of the rotated nibble leaves. -/
theorem rotateInstruction : Obligations.RotateInstruction := fun s r =>
  ⟨_, memWrite_storesNibble s (generalReg s r) _, exec_rorc s r⟩

end Sys2Proof.Certificates
end

section
/-! PROOFS of the transfer family (1): a pop after a push (R29), and what MOVT leaves on a free stack level (R270). -/
namespace Sys2Proof.Machine

/-- A push faults without a free level: SP 0 wraps to 7, and SP 6 and 7 go to 5 and 6 (R29, R321). -/
theorem pushFaults_of_noFreeLevel {s : State} (h : ¬ HasFreeLevel s) : pushFaults s = true := by
  have hsp : 4 < (s.sp - 1).toNat := by
    rw [HasFreeLevel] at h
    bv_omega
  exact decide_eq_true hsp

/-- A pop after a push restores SP and leaves the value pushed in the address stack register it used (R29). -/
theorem pop_push (v : CodeAddr) (s : State) :
    pop (push v s) = { s with asr := s.asr.setIfInBounds (s.sp - 1).toNat v } := by
  have hsp : s.sp - 1 + 1 = s.sp := BitVec.sub_add_cancel _ _
  simp only [pop, push, hsp]

/-- A load of the data buffer and a pop do not see each other. -/
theorem pop_dbfWrite (v : Word) (s : State) : pop (dbfWrite v s) = dbfWrite v (pop s) := rfl

/-- MOVT on a free level loads DBF with the word at AR, and beside DBF changes only the address stack register it used
(R270). -/
theorem exec_movt_of_level {s : State} (h : HasFreeLevel s) : exec .movt s =
    .next (dbfWrite (romRead s s.ar) { s with asr := s.asr.setIfInBounds (s.sp - 1).toNat s.pc }) := by
  rw [exec_movt, withPush_of_level _ _ (pushFaults_of_freeLevel h), pop_dbfWrite, pop_push]

end Sys2Proof.Machine
end

section
/-! PROOFS of the transfer family (2): the statements, assembled from the laws above. -/
namespace Sys2Proof.Certificates
open Sys2Proof.Machine

/-- Settles O32: the three moves are guarded stores. -/
theorem loadStoreInstructions : Obligations.LoadStoreInstructions := fun _ _ _ _ hs =>
  ⟨rfl, rfl, rfl, tableGuard_memWrite hs _ _, tableGuard_memWrite hs _ _, tableGuard_memWrite hs _ _⟩

/-- Settles O34: a load of the data buffer between a push and a pop, or the fault of the push. -/
theorem tableReference : Obligations.TableReference := fun s =>
  ⟨rfl,
    fun hlevel => ⟨_, exec_movt_of_level hlevel, dbfWrite_buffer _ _, dbfRead_dbfWrite _ _⟩,
    fun hfull => (exec_movt s).trans (withPush_of_fault _ _ (pushFaults_of_noFreeLevel hfull))⟩

end Sys2Proof.Certificates
end

section
/-! PROOFS of the subroutine family (1): RETI on the state an acceptance leaves (R299, R338). -/
namespace Sys2Proof.Machine

/-- An acceptance fills a stack level, so the pop after it does not fault as long as its push did not. -/
theorem popFaults_takeInterrupt (src : IrqSource) (s : State) : popFaults (takeInterrupt src s) = pushFaults s := rfl

/-- The entry that an acceptance on a free level leaves on top of the stack is the pc it interrupted. -/
theorem asrRead_takeInterrupt (src : IrqSource) {s : State} (h : pushFaults s = false) :
    asrRead (takeInterrupt src s) (takeInterrupt src s).sp = s.pc :=
  asrRead_push s.pc h

/-- The return after an acceptance on a free level restores pc, SP and PSWORD. -/
theorem returnFromInterrupt_takeInterrupt (src : IrqSource) {s : State} (h : pushFaults s = false) :
    let t := returnFromInterrupt (takeInterrupt src s)
    t.pc = s.pc ∧ t.sp = s.sp ∧ t.psw = s.psw :=
  ⟨asrRead_takeInterrupt src h, BitVec.sub_add_cancel _ _, rfl⟩

end Sys2Proof.Machine
end

section
/-! PROOFS of the subroutine family (2): the statement, assembled from the laws above. -/
namespace Sys2Proof.Certificates
open Sys2Proof.Machine

/-- Settles O15: the level that the acceptance filled is the one that RETI frees. -/
theorem retiUndoesAcceptance : Obligations.RetiUndoesAcceptance := fun s src hlevel =>
  have hpush : pushFaults s = false := pushFaults_of_freeLevel hlevel
  have hpop : popFaults (takeInterrupt src s) = false := (popFaults_takeInterrupt src s).trans hpush
  ⟨_, exec_reti _ hpop, returnFromInterrupt_takeInterrupt src hpush⟩

end Sys2Proof.Certificates
end

section
/-! PROOFS of the other instructions (1): NOP (R312). -/
namespace Sys2Proof.Machine

/-- NOP completes in the state it started in: the pc moved at the fetch, and the rest of the slot is the step's (R312). -/
theorem exec_nop (s : State) : exec .nop s = .next s := rfl

end Sys2Proof.Machine
end

section
/-! PROOFS of the other instructions (2): the statement, assembled from the law above. -/
namespace Sys2Proof.Certificates
open Sys2Proof.Machine

/-- Settles O53: the word of NOP, and its execution. -/
theorem nopInstruction : Obligations.NopInstruction := fun s => ⟨rfl, exec_nop s⟩

end Sys2Proof.Certificates
end

section
/-! PROOFS of the exceptions family (1): what a slot without an instruction comes to: the acceptance of an interrupt
(R337, R338), a slot of HALT mode (R352), of STOP mode (R361) and of a stabilization wait (R463, R365). -/
namespace Sys2Proof.Machine

/-! ## The end of a slot -/

/-- Step 5 of R491 ends a slot as `SlotEnd` says. -/
theorem slotDevices_slotEnd (single comparing : Bool) (h : HostSlot) (s : State) :
    SlotEnd single comparing h s (slotDevices single comparing h s) := by
  refine ⟨slotDevices_devices single comparing h s, fun hm => ?_, fun c hm => ?_, fun kind left hm => ?_,
    fun c hm => ?_⟩
  · exact ⟨clockedDevices single h s, rfl, by simp only [slotDevices, hm]⟩
  all_goals simp only [slotDevices, hm]; rfl

/-- With no EI delay running, step 4 of R491 does nothing (R86). -/
theorem tickEi_of_noDelay {s : State} (h : s.eiDelay = 0) : tickEi s = s := if_pos h

/-! ## Acceptance (R337, R338) -/

/-- What the acceptance asks beside a pending source (R337). -/
theorem acceptEnabled_of_fields {s : State} (hi : s.inte = true) (hd : s.eiDelay = 0) (hk : s.skipNext = false) :
    acceptEnabled s = true := by
  simp [acceptEnabled, hi, hd, hk]

/-- An acceptable request on a free stack level takes the slot. -/
theorem runSlot_of_accept {s : State} {src : IrqSource} (h : HostSlot) (ha : acceptEnabled s = true)
    (hp : pendingSource s = some src) (hf : pushFaults s = false) :
    runSlot h s = .next (closeSlot false (decide (0 < s.comparator.busy)) h (takeInterrupt src s)) := by
  simp only [runSlot, ha, hp, hf, Bool.false_eq_true, if_false]

/-- An acceptable request without a free stack level is the stack fault reset, in which the pins settle (R321). -/
theorem runSlot_of_acceptFault {s : State} {src : IrqSource} (h : HostSlot) (ha : acceptEnabled s = true)
    (hp : pendingSource s = some src) (hf : pushFaults s = true) :
    runSlot h s = .next (settlePins h (stackFaultReset s)) := by
  simp only [runSlot, ha, hp, hf, if_true]

/-- An acceptance leaves the EI delay, which is not running. -/
theorem closeSlot_takeInterrupt (src : IrqSource) (comparing : Bool) (h : HostSlot) {s : State} (hd : s.eiDelay = 0) :
    closeSlot false comparing h (takeInterrupt src s) = slotDevices false comparing h (takeInterrupt src s) :=
  congrArg (slotDevices false comparing h) (tickEi_of_noDelay (s := takeInterrupt src s) hd)

/-- What the devices leave of an acceptance is what the acceptance set (R338). -/
theorem DevicesOnly.acceptance_registers {src : IrqSource} {s t : State} (h : DevicesOnly (takeInterrupt src s) t)
    (hf : pushFaults s = false) :
    t.pc = vectorAddr src ∧ t.sp = s.sp - 1 ∧ asrRead t t.sp = s.pc ∧ t.intsk = s.psw ∧ t.psw = .clear ∧
      t.inte = false := by
  obtain ⟨hframe, -, -⟩ := h
  have hsp : t.sp = s.sp - 1 := congrArg State.sp hframe
  have hasr : t.asr = (takeInterrupt src s).asr := by rw [hframe]
  refine ⟨congrArg State.pc hframe, hsp, ?_, congrArg State.intsk hframe, congrArg State.psw hframe,
    congrArg State.inte hframe⟩
  calc asrRead t t.sp = asrRead (takeInterrupt src s) (takeInterrupt src s).sp := by rw [asrRead, hasr, hsp]; rfl
    _ = s.pc := asrRead_takeInterrupt src hf

/-! ## HALT mode (R352) -/

/-- Whether a reset takes the slot does not depend on the mode (R461). -/
theorem NoReset.withMode {s : State} (h : NoReset s) (m : Mode) : NoReset { s with mode := m } :=
  (noReset_iff { s with mode := m }).2 ((noReset_iff s).1 h)

/-- The step in HALT mode. -/
theorem modeSlot_of_halt {s : State} {c : Nibble} (h : HostSlot) (hm : s.mode = .halt c) :
    modeSlot h s = haltSlot c h s := by simp only [modeSlot, hm]

/-- A released HALT goes on in RUN mode (R356). -/
theorem haltSlot_of_release {s : State} {c : Nibble} (h : HostSlot) (hr : haltRelease c s.req s = true) :
    haltSlot c h s = runSlot h { s with mode := .run } := if_pos hr

/-- Without a release only the devices of the slot act (R351). -/
theorem haltSlot_of_noRelease {s : State} {c : Nibble} (h : HostSlot) (hr : haltRelease c s.req s = false) :
    haltSlot c h s = .next (slotDevices false false h s) := if_neg (by rw [hr]; exact Bool.false_ne_true)

/-! ## STOP mode (R361, R365) -/

/-- The step in STOP mode. -/
theorem modeSlot_of_stop {s : State} {c : Nibble} (h : HostSlot) (hm : s.mode = .stop c) :
    modeSlot h s = .next (stopSlot c h s) := by simp only [modeSlot, hm]

/-- Without a release the slot is that of STOP mode (R361). -/
theorem stopSlot_of_noRelease {s : State} {c : Nibble} (h : HostSlot) (hm : s.mode = .stop c)
    (hr : stopRelease c s.req s = false) : stopSlot c h s = slotDevices false false h s := by
  simp only [stopSlot, slotDevices, hm, hr, Bool.false_eq_true, if_false]

/-- A release starts the wait with the devices of STOP mode (R365). -/
theorem stopSlot_of_release {s : State} {c : Nibble} (h : HostSlot) (hr : stopRelease c s.req s = true) :
    stopSlot c h s = stoppedDevices h { s with mode := .wait .afterStop (stopWaitSlots s) } := if_pos hr

/-- Released or not, a slot of STOP mode keeps the timer and pc (R363). -/
theorem stopSlot_keeps (c : Nibble) (h : HostSlot) (s : State) :
    (stopSlot c h s).pc = s.pc ∧ (stopSlot c h s).timer = s.timer := by
  have hpc : ∀ u : State, (stoppedDevices h u).pc = u.pc := fun u => by
    rw [(stoppedDevices_devices h u).1]
  unfold stopSlot
  split
  · exact ⟨hpc _, (stoppedDevices_timer h _).1⟩
  · exact ⟨hpc _, (stoppedDevices_timer h _).1⟩

/-- The wait after STOP takes (TMM + 1) × m system clocks of an internal count clock of m (R365). -/
theorem stopWaitSlots_internal {s : State} {m : Nat} (h : (s.timer.tmck, m) ∈ [(0#2, 256), (1#2, 32), (2#2, 2048)]) :
    stopWaitSlots s = (s.timer.tmm.toNat + 1) * m / 16 := by
  simp only [List.mem_cons, List.not_mem_nil, or_false, Prod.mk.injEq] at h
  rcases h with ⟨hck, rfl⟩ | ⟨hck, rfl⟩ | ⟨hck, rfl⟩ <;> simp [stopWaitSlots, countDivisor, hck]

/-! ## A stabilization wait (R463, R365) -/

/-- The step in a stabilization wait. -/
theorem modeSlot_of_wait {s : State} {kind : WaitKind} {left : Nat} (h : HostSlot) (hm : s.mode = .wait kind left) :
    modeSlot h s = .next (waitSlot kind left h s) := by simp only [modeSlot, hm]

/-- A slot that the host prolongs moves the devices alone (D16). -/
theorem waitSlot_of_prolonged {h : HostSlot} (kind : WaitKind) (left : Nat) (s : State) (hp : h.prolongWait = true) :
    waitSlot kind left h s = slotDevices false false h s := if_pos hp

/-- A slot before the last one counts down. -/
theorem waitSlot_of_more {h : HostSlot} {left : Nat} (kind : WaitKind) (s : State) (hp : h.prolongWait = false)
    (hl : 2 ≤ left) :
    waitSlot kind left h s = { slotDevices false false h s with mode := .wait kind (left - 1) } :=
  (if_neg (by rw [hp]; exact Bool.false_ne_true)).trans (if_neg (by omega))

/-- The last slot ends the wait. -/
theorem waitSlot_of_last {h : HostSlot} {left : Nat} (kind : WaitKind) (s : State) (hp : h.prolongWait = false)
    (hl : left ≤ 1) : waitSlot kind left h s = waitEnds kind (slotDevices false false h s) :=
  (if_neg (by rw [hp]; exact Bool.false_ne_true)).trans (if_pos hl)

/-- The devices do not see the mode the step sets after them. -/
theorem DevicesOnly.withMode {s t : State} (h : DevicesOnly s t) (m : Mode) :
    DevicesOnly { s with mode := m } { t with mode := m } := by
  obtain ⟨hframe, hreq, hlatch⟩ := h
  exact ⟨congrArg (fun u : State => { u with mode := m }) hframe, hreq, hlatch⟩

/-- The end of a wait is a match, beside the mode (R365, R463). -/
theorem waitEnds_devices (kind : WaitKind) (s : State) : DevicesOnly { s with mode := .run } (waitEnds kind s) :=
  .of_latch rfl ⟨id, fun h => Bool.or_eq_true_iff.2 (.inl h), id⟩

/-- A slot of a wait acts on devices only, and on the mode. -/
theorem waitSlot_devices (kind : WaitKind) (left : Nat) (h : HostSlot) (s : State) :
    DevicesOnly { s with mode := (waitSlot kind left h s).mode } (waitSlot kind left h s) := by
  have hd := slotDevices_devices false false h s
  cases hp : h.prolongWait with
  | true =>
    rw [waitSlot_of_prolonged kind left s hp, slotDevices_mode]
    exact hd
  | false =>
    rcases Nat.lt_or_ge 1 left with hl | hl
    · rw [waitSlot_of_more kind s hp hl]
      exact hd.withMode _
    · rw [waitSlot_of_last kind s hp hl]
      exact (hd.withMode .run).trans (waitEnds_devices kind _)

/-- Before its last slot a wait has no match (R365, R463). -/
theorem waitSlot_noMatch {kind : WaitKind} {left : Nat} {h : HostSlot} {s : State} (hm : s.mode = .wait kind left)
    (hc : h.prolongWait = true ∨ 2 ≤ left) : NoMatch s (waitSlot kind left h s) := by
  have hd : NoMatch s (slotDevices false false h s) := slotDevices_wait hm false false h
  cases hp : h.prolongWait with
  | true => rw [waitSlot_of_prolonged kind left s hp]; exact hd
  | false => rw [waitSlot_of_more kind s hp (hc.resolve_left (by simp [hp]))]; exact hd

/-- The end of a wait after a reset sets IRQTM and keeps the output flip-flop (R463). -/
theorem waitEnds_afterReset (s : State) :
    (waitEnds .afterReset s).req.tm = true ∧ (waitEnds .afterReset s).timer.tmout = s.timer.tmout :=
  ⟨Bool.or_true _, rfl⟩

/-- The end of a wait after STOP sets IRQTM by the open parameter and toggles the output flip-flop (R365, R410). -/
theorem waitEnds_afterStop (s : State) :
    (waitEnds .afterStop s).req.tm = (s.req.tm || s.chip.stopWaitSetsIrqtm) ∧
      (waitEnds .afterStop s).timer.tmout = !s.timer.tmout := ⟨rfl, rfl⟩

end Sys2Proof.Machine
end

section
/-! PROOFS of the exceptions family (2): the statements, by tier, assembled from the laws above. -/
namespace Sys2Proof.Certificates
open Sys2Proof.Machine

/-! ## Tier 2 -/

/-- Settles O13: nothing of what R337 asks changes at the boundary; a free level decides between acceptance and fault. -/
theorem stepAcceptsInterrupt : Obligations.StepAcceptsInterrupt := by
  intro s src hr hm hi hd hk hp
  have hstep := (step_of_noReset hr).trans (modeSlot_of_run (currentSlot s) (s := atBoundary s) hm)
  have ha : acceptEnabled (atBoundary s) = true := acceptEnabled_of_fields hi hd hk
  refine ⟨fun hl => ?_, fun hl => ?_⟩
  · have hf : pushFaults (atBoundary s) = false := pushFaults_of_freeLevel (s := atBoundary s) hl
    have hend := slotDevices_slotEnd false (decide (0 < s.comparator.busy)) (currentSlot s)
      (takeInterrupt src (atBoundary s))
    refine ⟨_, (hstep.trans (runSlot_of_accept _ ha hp hf)).trans ?_, hend, hend.1.acceptance_registers hf⟩
    rw [closeSlot_takeInterrupt src _ _ (s := atBoundary s) hd]
    rfl
  · have hf : pushFaults (atBoundary s) = true := pushFaults_of_noFreeLevel (s := atBoundary s) hl
    exact ⟨_, hstep.trans (runSlot_of_acceptFault _ ha hp hf), settlePins_settled _ _⟩

/-- Settles O16: the slot goes by the release condition, which the boundary leaves as it was. -/
theorem haltStep : Obligations.HaltStep := by
  intro s h hr hm
  have hstep := (step_of_noReset hr).trans (modeSlot_of_halt (currentSlot s) (s := atBoundary s) hm)
  refine ⟨fun hrel => ?_, fun hrel => ?_⟩
  · exact ⟨_, hstep.trans (haltSlot_of_noRelease _ hrel), slotDevices_slotEnd _ _ _ _⟩
  · have hrun := (step_of_noReset (hr.withMode .run)).trans
      (modeSlot_of_run (currentSlot s) (s := atBoundary { s with mode := .run }) rfl)
    exact (hstep.trans (haltSlot_of_release _ hrel)).trans hrun.symm

/-- Settles O17: the two slots of STOP mode, and the length of the wait by the three internal count clocks. -/
theorem stopStep : Obligations.StopStep := by
  intro s c hr hm
  have hstep := (step_of_noReset hr).trans (modeSlot_of_stop (currentSlot s) (s := atBoundary s) hm)
  obtain ⟨hpc, htimer⟩ := stopSlot_keeps c (currentSlot s) (atBoundary s)
  refine ⟨⟨_, hstep, hpc, htimer, fun hrel => ?_, fun hrel => ?_⟩, fun m hmem hck => ?_⟩
  · rw [stopSlot_of_noRelease (s := atBoundary s) _ hm hrel]
    exact slotDevices_slotEnd _ _ _ _
  · rw [stopSlot_of_release (s := atBoundary s) _ hrel]
    exact ⟨stoppedDevices_devices _ _, rfl⟩
  · refine stopWaitSlots_internal (s := atBoundary s) (m := m.2) ?_
    show (s.timer.tmck, m.2) ∈ _
    rw [hck]
    exact hmem

/-- Settles O18: a slot of the wait is prolonged, counts down, or ends it. -/
theorem waitStep : Obligations.WaitStep := by
  intro s kind left hr hm
  have hb : (atBoundary s).mode = .wait kind left := hm
  have hstep := (step_of_noReset hr).trans (modeSlot_of_wait (currentSlot s) hb)
  obtain ⟨htm, htmout⟩ := slotDevices_wait hb false false (currentSlot s)
  have hchip := congrArg State.chip (slotDevices_devices false false (currentSlot s) (atBoundary s)).1
  refine ⟨_, _, hstep, slotDevices_slotEnd _ _ _ _, waitSlot_devices kind left _ _, fun hp => ?_,
    fun hp hl => ?_, waitSlot_noMatch hb, fun hp hl => ?_⟩
  · rw [waitSlot_of_prolonged kind left _ hp]
    exact ⟨rfl, (slotDevices_mode _ _ _ _).trans hb⟩
  · exact waitSlot_of_more kind _ hp hl
  · rw [waitSlot_of_last kind _ hp hl]
    refine ⟨rfl, ?_, ?_⟩
    · rintro rfl
      obtain ⟨hset, hkept⟩ := waitEnds_afterReset (slotDevices false false (currentSlot s) (atBoundary s))
      exact ⟨hset, hkept.trans htmout⟩
    · rintro rfl
      obtain ⟨hset, htoggled⟩ := waitEnds_afterStop (slotDevices false false (currentSlot s) (atBoundary s))
      rw [hset, htoggled, htm, htmout, hchip]
      exact ⟨rfl, rfl⟩

/-! ## Tier 1 -/

/-- Settles O14: the sources in the order of R335. -/
theorem interruptPriority : Obligations.InterruptPriority := by
  intro s
  refine ⟨fun ⟨hr, he⟩ => ?_, fun ⟨hpin, hr, he⟩ => ?_, fun ⟨hpin, htm, hr, he⟩ => ?_, fun ⟨hpin, htm, hsio⟩ => ?_,
    ⟨rfl, rfl, rfl⟩, rfl, rfl, rfl⟩
  · simp only [pendingSource, hr, he, Bool.and_self, if_true]
  · simp only [pendingSource, Bool.and_eq_true, if_neg hpin, hr, he, and_self, if_true]
  · simp only [pendingSource, Bool.and_eq_true, if_neg hpin, if_neg htm, hr, he, and_self, if_true]
  · simp only [pendingSource, Bool.and_eq_true, if_neg hpin, if_neg htm, if_neg hsio]

end Sys2Proof.Certificates
end

section
/-! PROOFS of the peripherals family (1): the timer and the INT pin: count pulses in a row (R405), the prescaler over many
slots (R404), and the INT levels of a slot as count pulses and edges that do not see each other (R332, R401, R406). -/
namespace Sys2Proof.Machine

/-- The machine with another timer. -/
def State.withTimer (s : State) (t : Timer) : State := { s with timer := t }

@[simp] theorem withTimer_timer (s : State) (t : Timer) : (s.withTimer t).timer = t := rfl
@[simp] theorem withTimer_withTimer (s : State) (t u : Timer) : (s.withTimer t).withTimer u = s.withTimer u := rfl

/-! ## Count pulses (R405, R411) -/

/-- Short of the match a count pulse counts (R405). -/
theorem countPulse_of_ne {s : State} (h : s.timer.tmc ≠ s.timer.tmm) :
    countPulse s = s.withTimer { s.timer with tmc := s.timer.tmc + 1 } := if_neg h

/-- The pulse that finds TMC = TMM is the match (R405). -/
theorem countPulse_of_match {s : State} (h : s.timer.tmc = s.timer.tmm) :
    countPulse s = { s with
      timer := { s.timer with tmc := 0, tmout := !s.timer.tmout }
      req := { s.req with tm := true } } := if_pos h

/-- Outside a wait a count pulse is that of R405 (R402). -/
theorem timerPulse_of_noWait {s : State} (h : ∀ kind left, s.mode ≠ .wait kind left) : timerPulse s = countPulse s := by
  unfold timerPulse
  split
  · next kind left hm => exact absurd hm (h kind left)
  · rfl

/-- Short of the match a count pulse counts in every mode, a wait included (R402, R411). -/
theorem timerPulse_of_ne {s : State} (h : s.timer.tmc ≠ s.timer.tmm) :
    timerPulse s = s.withTimer { s.timer with tmc := s.timer.tmc + 1 } := by
  unfold timerPulse
  split
  · exact if_neg h
  · exact countPulse_of_ne h

/-- So are several in a row, which keep the mode. -/
theorem timerPulse_iterate_of_noWait {s : State} (h : ∀ kind left, s.mode ≠ .wait kind left) (n : Nat) :
    timerPulse^[n] s = countPulse^[n] s := by
  induction n generalizing s with
  | zero => rfl
  | succ n ih =>
    rw [Function.iterate_succ_apply, Function.iterate_succ_apply, timerPulse_of_noWait h]
    exact ih (by rw [countPulse_frame]; exact h)

/-- As many pulses as do not pass TMM count without a match (R405). -/
theorem countPulse_iterate {s : State} {k : Nat} (h : s.timer.tmc.toNat + k ≤ s.timer.tmm.toNat) :
    countPulse^[k] s = s.withTimer { s.timer with tmc := s.timer.tmc + BitVec.ofNat 8 k } := by
  induction k with
  | zero =>
    simp only [Function.iterate_zero_apply, BitVec.add_zero]
    rfl
  | succ k ih =>
    have hne : s.timer.tmc + BitVec.ofNat 8 k ≠ s.timer.tmm := by bv_omega
    have hsum : s.timer.tmc + BitVec.ofNat 8 k + 1 = s.timer.tmc + BitVec.ofNat 8 (k + 1) := by bv_omega
    rw [Function.iterate_succ_apply', ih (by omega), countPulse_of_ne hne]
    simp only [withTimer_timer, withTimer_withTimer, hsum]

/-! ## The prescaler (R404) -/

/-- A slot in which the prescaler counts nothing moves its phase alone. -/
theorem timerSlot_of_noWrap {s : State} (h : (s.timer.tmen && prescalerWraps s) = false) :
    timerSlot s = s.withTimer { s.timer with presc := s.timer.presc + 16 } :=
  if_neg (by rw [h]; exact Bool.false_ne_true)

/-- A slot in which the prescaler wraps gives a count pulse. -/
theorem timerSlot_of_wrap {s : State} (h : (s.timer.tmen && prescalerWraps s) = true) :
    timerSlot s = timerPulse (s.withTimer { s.timer with presc := s.timer.presc + 16 }) := if_pos h

/-- With the external clock the prescaler never wraps (R411). -/
theorem prescalerWraps_external {s : State} (h : s.timer.tmck = 3) : prescalerWraps s = false := by
  simp [prescalerWraps, h]

/-- The internal count clocks with their divisors in system clocks (R401). -/
def internalClocks : List (BitVec 2 × Nat) := [(0, 256), (1, 32), (2, 2048)]

/-- The three internal count clocks. -/
theorem internalClocks_cases {ck : BitVec 2} {m : Nat} (h : (ck, m) ∈ internalClocks) :
    ck = 0 ∧ m = 256 ∨ ck = 1 ∧ m = 32 ∨ ck = 2 ∧ m = 2048 := by simpa [internalClocks] using h

/-- A slot is shorter than a period of an internal count clock, and the prescaler holds whole periods. -/
theorem internalClocks_period {ck : BitVec 2} {m : Nat} (h : (ck, m) ∈ internalClocks) : 16 < m ∧ m ∣ 2 ^ 11 := by
  rcases internalClocks_cases h with ⟨-, rfl⟩ | ⟨-, rfl⟩ | ⟨-, rfl⟩ <;> decide

/-- The phase of an internal count clock after `n` more system clocks (R404). -/
theorem prescalerPhase_add {ck : BitVec 2} {m : Nat} (h : (ck, m) ∈ internalClocks) (p : BitVec 11) (n : Nat) :
    (p + BitVec.ofNat 11 n).toNat % m = (p.toNat % m + n) % m := by
  rw [BitVec.toNat_add, BitVec.toNat_ofNat, Nat.add_mod_mod, Nat.mod_mod_of_dvd _ (internalClocks_period h).2,
    Nat.mod_add_mod]

/-- A slot of 16 clocks from phase `p` ends a period of `m` clocks (R404). -/
def endsPeriod (m p : Nat) : Bool := decide (m ≤ p % m + 16)

/-- The prescaler wraps in the slot that ends a period of an internal count clock (R404). -/
theorem prescalerWraps_internal {s : State} {m : Nat} (h : (s.timer.tmck, m) ∈ internalClocks) :
    prescalerWraps s = endsPeriod m s.timer.presc.toNat := by
  have hclock : countDivisor s.timer.tmck = m ∧ (s.timer.tmck != 3) = true := by
    rcases internalClocks_cases h with ⟨hck, rfl⟩ | ⟨hck, rfl⟩ | ⟨hck, rfl⟩ <;> rw [hck] <;> decide
  obtain ⟨hdiv, hne⟩ := hclock
  have hphase : (s.timer.presc + 16).toNat % m = (s.timer.presc.toNat % m + 16) % m := prescalerPhase_add h _ 16
  rw [prescalerWraps, hdiv, hne, hphase, Bool.true_and, endsPeriod, decide_eq_decide]
  rcases internalClocks_cases h with ⟨-, rfl⟩ | ⟨-, rfl⟩ | ⟨-, rfl⟩ <;> omega

/-- A slot of an internal count clock counts the period that ends in it, short of the match (R404, R411). -/
theorem timerSlot_internal {s : State} {m : Nat} (hck : (s.timer.tmck, m) ∈ internalClocks) (he : s.timer.tmen = true)
    (hk : s.timer.tmc.toNat + (endsPeriod m s.timer.presc.toNat).toNat ≤ s.timer.tmm.toNat) :
    timerSlot s = s.withTimer { s.timer with
      presc := s.timer.presc + 16
      tmc := s.timer.tmc + BitVec.ofNat 8 (endsPeriod m s.timer.presc.toNat).toNat } := by
  have hwraps := prescalerWraps_internal hck
  cases hend : endsPeriod m s.timer.presc.toNat with
  | false => rw [timerSlot_of_noWrap (by rw [hwraps, hend, Bool.and_false]), Bool.toNat_false, BitVec.add_zero]
  | true =>
    rw [hend, Bool.toNat_true] at hk
    have hne : s.timer.tmc ≠ s.timer.tmm := by bv_omega
    rw [timerSlot_of_wrap (by rw [he, hwraps, hend]; rfl)]
    exact timerPulse_of_ne (s := s.withTimer { s.timer with presc := s.timer.presc + 16 }) hne

/-- The periods of `m` clocks that end within `k` slots from phase `p` (R404). -/
def periodsEnded (m p k : Nat) : Nat := (p % m + 16 * k) / m

/-- One slot more ends the period that its own phase says. -/
theorem periodsEnded_succ {ck : BitVec 2} {m : Nat} (h : (ck, m) ∈ internalClocks) (p : BitVec 11) (k : Nat) :
    periodsEnded m p.toNat (k + 1) =
      periodsEnded m p.toNat k + (endsPeriod m (p + BitVec.ofNat 11 (16 * k)).toNat).toNat := by
  have hm : 16 < m := (internalClocks_period h).1
  unfold periodsEnded endsPeriod
  rw [prescalerPhase_add h, Nat.mul_succ, ← Nat.add_assoc, Nat.add_div (by omega), Nat.div_eq_of_lt hm,
    Nat.mod_eq_of_lt hm, Nat.add_zero, Bool.toNat, Bool.cond_decide]

/-- `k` slots of an internal count clock count the periods that end in them, as long as these do not pass TMM (R404,
R411). -/
theorem timerSlot_iterate {s : State} {m k : Nat} (hck : (s.timer.tmck, m) ∈ internalClocks) (he : s.timer.tmen = true)
    (hk : s.timer.tmc.toNat + periodsEnded m s.timer.presc.toNat k ≤ s.timer.tmm.toNat) :
    timerSlot^[k] s = s.withTimer { s.timer with
      presc := s.timer.presc + BitVec.ofNat 11 (16 * k)
      tmc := s.timer.tmc + BitVec.ofNat 8 (periodsEnded m s.timer.presc.toNat k) } := by
  induction k with
  | zero =>
    have hnone : periodsEnded m s.timer.presc.toNat 0 = 0 := Nat.mod_div_self _ _
    simp only [Function.iterate_zero_apply, hnone, Nat.mul_zero, BitVec.add_zero]
    rfl
  | succ k ih =>
    rw [periodsEnded_succ hck] at hk ⊢
    have hpresc : s.timer.presc + BitVec.ofNat 11 (16 * k) + 16 = s.timer.presc + BitVec.ofNat 11 (16 * (k + 1)) := by
      bv_omega
    rw [Function.iterate_succ_apply', ih (by omega), timerSlot_internal (m := m) (by exact hck) (by exact he)]
    · simp only [withTimer_timer, withTimer_withTimer, hpresc, BitVec.add_assoc, BitVec.ofNat_add]
    · simp only [withTimer_timer]
      bv_omega

/-- Over one period of an internal count clock, whatever its phase and in every mode, there is one count (R404, R411). -/
theorem timerSlot_period {s : State} {n : Nat} (hck : (s.timer.tmck, 16 * n) ∈ internalClocks)
    (he : s.timer.tmen = true) (hk : s.timer.tmc.toNat + 1 ≤ s.timer.tmm.toNat) :
    timerSlot^[n] s = s.withTimer { s.timer with
      presc := s.timer.presc + BitVec.ofNat 11 (16 * n), tmc := s.timer.tmc + 1 } := by
  have hpos : 0 < 16 * n := Nat.lt_trans (by decide) (internalClocks_period hck).1
  have hone : periodsEnded (16 * n) s.timer.presc.toNat n = 1 := by
    rw [periodsEnded, Nat.add_div_right _ hpos, Nat.mod_div_self]
  have hslots := timerSlot_iterate (k := n) hck he (by rw [hone]; exact hk)
  rw [hone] at hslots
  exact hslots

/-! ## The levels of INT (R332, R401, R406) -/

/-- All the levels of a slot through the edge detector, in order. -/
def intEdges (levels : List Bool) (s : State) : State := levels.foldl (fun u level => intEdge level u) s

/-- The edge detector acts on IRQ, `int_prev` and the pin alone, which end at the last level. -/
theorem intEdges_frame (levels : List Bool) (s : State) : intEdges levels s = { s with
    req := { s.req with pin := (intEdges levels s).req.pin }
    intPrev := levels.getLastD s.intPrev
    pins := { s.pins with int := levels.getLastD s.pins.int } } := by
  induction levels generalizing s with
  | nil => rfl
  | cons level rest ih =>
    rw [List.getLastD_cons, List.getLastD_cons]
    exact ih (intEdge level s)

/-- The edge that sets IRQ: rising unless IEGMD = 01, falling unless IEGMD = 00 (R332). -/
theorem edgeSelected_iff (iegmd : BitVec 2) (before now : Bool) : edgeSelected iegmd before now = true ↔
    before = false ∧ now = true ∧ iegmd ≠ 1 ∨ before = true ∧ now = false ∧ iegmd ≠ 0 := by
  revert iegmd before now
  decide

/-- INT counts: TMEN = 1 and the external clock (R401). -/
def countsInt (s : State) : Bool := s.timer.tmen && s.timer.tmck == 3

/-- `t` is `s` but for the count, the output flip-flop and IRQTM (R405). -/
def CountsOnly (s t : State) : Prop :=
  t = { s with
    timer := { s.timer with tmc := t.timer.tmc, tmout := t.timer.tmout }
    req := { s.req with tm := t.req.tm } }

/-- Two of them in a row. -/
theorem CountsOnly.trans {s t u : State} (h : CountsOnly s t) (k : CountsOnly t u) : CountsOnly s u := by
  unfold CountsOnly at h k
  refine Eq.trans k ?_
  rw [h]

/-- `int_prev` is as before. -/
theorem CountsOnly.intPrev {s t : State} (h : CountsOnly s t) : t.intPrev = s.intPrev := by
  unfold CountsOnly at h
  rw [h]

/-- The pins are as before. -/
theorem CountsOnly.pins {s t : State} (h : CountsOnly s t) : t.pins = s.pins := by
  unfold CountsOnly at h
  rw [h]

/-- The other two requests are as before. -/
theorem CountsOnly.req {s t : State} (h : CountsOnly s t) : t.req = { s.req with tm := t.req.tm } := by
  unfold CountsOnly at h
  rw [h]

/-- The serial interface is as before. -/
theorem CountsOnly.serial {s t : State} (h : CountsOnly s t) : t.serial = s.serial := by
  unfold CountsOnly at h
  rw [h]

/-- The choice of the count clock is as before. -/
theorem CountsOnly.countsInt {s t : State} (h : CountsOnly s t) : countsInt t = countsInt s := by
  unfold CountsOnly at h
  rw [h]
  rfl

/-- A count pulse of any mode counts only. -/
theorem timerPulse_countsOnly (s : State) : CountsOnly s (timerPulse s) := by
  unfold timerPulse
  split
  · unfold waitPulse
    split <;> rfl
  · exact countPulse_frame s

/-- Count pulses in a row count only. -/
theorem timerPulse_iterate_countsOnly (n : Nat) (s : State) : CountsOnly s (timerPulse^[n] s) := by
  induction n with
  | zero => rfl
  | succ n ih =>
    rw [Function.iterate_succ_apply']
    exact ih.trans (timerPulse_countsOnly _)

/-- An edge of INT and a count pulse do not see each other (R332, R405). -/
theorem intEdge_commute_timerPulse (level : Bool) : Function.Commute (intEdge level) timerPulse := by
  intro s
  by_cases hmatch : s.timer.tmc = s.timer.tmm
  · have hsame : (intEdge level s).timer.tmc = (intEdge level s).timer.tmm := hmatch
    unfold timerPulse waitPulse countPulse
    rw [if_pos hmatch, if_pos hmatch, if_pos hsame, if_pos hsame]
    cases hm : s.mode <;> simp [intEdge, hm]
  · rw [timerPulse_of_ne hmatch, timerPulse_of_ne (s := intEdge level s) hmatch]
    rfl

/-- The rising edges of a slot that are counted: at most one with `single` (R401, R406). -/
def countedEdges (counting single before : Bool) (levels : List Bool) : Nat :=
  if counting then if single then min 1 (risingEdges before levels) else risingEdges before levels else 0

/-- The first level of a slot, counted or not: once it is counted, `single` lets no other be. -/
theorem countedEdges_cons (counting single before now : Bool) (rest : List Bool) :
    countedEdges counting single before (now :: rest) =
      if counting && !before && now then countedEdges (!single) single now rest + 1
      else countedEdges counting single now rest := by
  cases counting <;> cases single <;> cases before <;> cases now <;> simp [countedEdges, risingEdges, Nat.add_comm]

/-- The first level of a slot through the edge detector and, if it counts, into the count (R332, R401, R406). -/
theorem intLevels_cons (counting single now : Bool) (rest : List Bool) (s : State) :
    intLevels counting single (now :: rest) s =
      if counting && countsInt s && !s.intPrev && now then
        intLevels (!single) single rest (timerPulse (intEdge now s))
      else intLevels counting single rest (intEdge now s) := by
  rw [intLevels, countsInt, ← Bool.and_assoc counting]

/-- The levels of INT in a slot are the count pulses of its counted edges and, unseen by these, the edge detector (R332,
R401, R406). -/
theorem intLevels_eq (counting single : Bool) (levels : List Bool) (s : State) :
    intLevels counting single levels s =
      intEdges levels (timerPulse^[countedEdges (counting && countsInt s) single s.intPrev levels] s) := by
  induction levels generalizing s counting with
  | nil => simp [intLevels, countedEdges, risingEdges, intEdges]
  | cons now rest ih =>
    have hcommute : ∀ n, intEdge now (timerPulse^[n] s) = timerPulse^[n] (intEdge now s) :=
      fun n => (intEdge_commute_timerPulse now).iterate_right n s
    rw [intLevels_cons, countedEdges_cons]
    by_cases hedge : (counting && countsInt s && !s.intPrev && now) = true
    · have hpulse := timerPulse_countsOnly (intEdge now s)
      have hcounts : countsInt (timerPulse (intEdge now s)) = true := by
        simp only [Bool.and_eq_true] at hedge
        exact hpulse.countsInt.trans hedge.1.1.2
      rw [if_pos hedge, if_pos hedge, ih, hcounts, hpulse.intPrev, Bool.and_true, ← Function.iterate_succ_apply,
        ← hcommute]
      rfl
    · rw [if_neg hedge, if_neg hedge, ih, ← hcommute]
      rfl

/-- Beside what they count, the levels of INT in a slot are the edge detector's (R332). -/
theorem intLevels_countsOnly (counting single : Bool) (levels : List Bool) (s : State) :
    CountsOnly (intEdges levels s) (intLevels counting single levels s) := by
  have hcommute : Function.Commute (intEdges levels) timerPulse := by
    induction levels with
    | nil => exact fun _ => rfl
    | cons now rest ih => exact ih.comp_left (intEdge_commute_timerPulse now)
  rw [intLevels_eq, hcommute.iterate_right]
  exact timerPulse_iterate_countsOnly _ _

/-- The levels of INT leave the serial interface and its request (R332). -/
theorem intLevels_serial (counting single : Bool) (levels : List Bool) (s : State) :
    (intLevels counting single levels s).serial = s.serial ∧
      (intLevels counting single levels s).req.sio = s.req.sio := by
  have hcounts := intLevels_countsOnly counting single levels s
  rw [hcounts.serial, hcounts.req, intEdges_frame]
  exact ⟨rfl, rfl⟩

end Sys2Proof.Machine
end

section
/-! PROOFS of the peripherals family (2): the serial interface: an edge of its clock in a transfer (R434), eight pulses of
the external clock, and an internal clock whose divider gives one rising edge in each of its periods (R431, R440). -/
namespace Sys2Proof.Machine

/-! ## The edges of a transfer (R434) -/

/-- The shift register with one bit more at its lower end (R434). -/
def shiftIn (v : Byte) (b : Bool) : Byte := v.extractLsb' 0 7 ++ BitVec.ofBool b

/-- The bits of the shift register after a shift. -/
theorem shiftIn_bit (v : Byte) (b : Bool) {i : Nat} (hi : i < 8) :
    (shiftIn v b).getLsbD i = if i = 0 then b else v.getLsbD (i - 1) := by
  unfold shiftIn
  rw [BitVec.getLsbD_append, BitVec.getLsbD_ofBool, BitVec.getLsbD_extractLsb']
  rcases i with _ | i
  · simp
  · simp [show i < 7 by omega]

/-- SI is the level of its pin while the serial interface is enabled (R387). -/
theorem pinLevel_si {s : State} (h : s.serial.sioen = true) : pinLevel s .d 2 = s.pins.d.getLsbD 2 := by
  simp only [pinLevel, drive, driveD, h, if_true, hostLevel]

/-- A rising edge past the first falling one takes SI in; the eighth ends the transfer (R434). -/
theorem serialRise_of_transfer {s : State} (hts : s.serial.siots = true) (hen : s.serial.sioen = true)
    (ha : s.serial.armed = true) : serialRise s = { s with
      serial := { s.serial with
        siosfr := shiftIn s.serial.siosfr (s.pins.d.getLsbD 2)
        count := s.serial.count + 1
        siots := decide (s.serial.count ≠ 7) }
      req := { s.req with sio := s.req.sio || decide (s.serial.count = 7) } } := by
  have hpin := pinLevel_si hen
  have hlast : s.serial.count + 1 = 0 ↔ s.serial.count = 7 := by bv_omega
  unfold serialRise
  rw [if_pos (by rw [hts, ha]; rfl), hpin]
  by_cases hc : s.serial.count = 7
  · rw [decide_eq_true hc, decide_eq_false (not_not_intro hc), Bool.or_true]
    exact if_pos (hlast.2 hc)
  · rw [decide_eq_false hc, decide_eq_true hc, Bool.or_false, ← hts]
    exact if_neg (mt hlast.1 hc)

/-- A falling edge in a transfer arms it, and moves nothing else but the latch of SO (R434, R438). -/
theorem serialFall_of_transfer {s : State} (hts : s.serial.siots = true) : serialFall s = { s with
    serial := { s.serial with armed := true }
    ports := { s.ports with latchD := (serialFall s).ports.latchD } } := by
  unfold serialFall
  rw [if_pos hts]

/-- In send mode a falling edge shows the most significant bit at SO (R434). -/
theorem serialFall_latch {s : State} (hts : s.serial.siots = true) (hz : s.serial.siohiz = false) :
    (serialFall s).ports.latchD.getLsbD 1 = s.serial.siosfr.getLsbD 7 := by
  unfold serialFall
  rw [if_pos hts]
  simp only [hz, Bool.not_false, if_true]
  exact nibble_bit _ _ _ _ 1

/-! ## The levels of P0D (R431, R440) -/

/-- The machine with a level of P0D on the pins, and none of its edges taken. -/
def withLevelD (now : Nibble) (s : State) : State :=
  { s with pins := { s.pins with d := now }, serial := { s.serial with sckPrev := now.getLsbD 0 } }

/-- With the external clock a change of SCK is an edge of the serial clock. -/
theorem dLevel_of_edge {s : State} {now : Nibble} (hck : s.serial.siock = 0) (hne : s.serial.sckPrev ≠ now.getLsbD 0) :
    dLevel s now = if now.getLsbD 0 then serialRise (withLevelD now s) else serialFall (withLevelD now s) :=
  if_pos (Bool.and_eq_true_iff.2 ⟨decide_eq_true hck, bne_iff_ne.2 hne⟩)

/-- With an internal clock the levels of P0D are pin levels alone. -/
theorem dLevel_of_internal {s : State} (now : Nibble) (hck : s.serial.siock ≠ 0) : dLevel s now = withLevelD now s :=
  if_neg fun h => hck (of_decide_eq_true (Bool.and_eq_true_iff.1 h).1)

/-- So are they over a whole slot. -/
theorem dLevels_of_internal (levels : List Nibble) {s : State} (hck : s.serial.siock ≠ 0) :
    levels.foldl dLevel s = { s with
      pins := (levels.foldl dLevel s).pins
      serial := { s.serial with sckPrev := (levels.foldl dLevel s).serial.sckPrev } } := by
  induction levels generalizing s with
  | nil => rfl
  | cons now rest ih =>
    rw [List.foldl_cons, dLevel_of_internal now hck]
    exact ih (s := withLevelD now s) hck

/-! ## Eight pulses of the external clock (R434) -/

/-- One pulse of SCK over SI = `b`. -/
def clockPulse (s : State) (b : Bool) : State :=
  dLevel (dLevel s (nibble false b false false)) (nibble false b false true)

/-- The levels that clock bits in are one pulse for each bit. -/
theorem foldl_clockIn (bits : List Bool) (s : State) : (clockIn bits).foldl dLevel s = bits.foldl clockPulse s := by
  rw [clockIn, List.foldl_flatMap]
  rfl

/-- A transfer with the external clock, which idles high. -/
structure ExternalTransfer (s : State) : Prop where
  running : s.serial.siots = true
  enabled : s.serial.sioen = true
  external : s.serial.siock = 0
  idlesHigh : s.serial.sckPrev = true

/-- A pulse is the edge that shows a bit at SO and the edge that takes one in. -/
theorem clockPulse_edges {s : State} (h : ExternalTransfer s) (b : Bool) : clockPulse s b =
    serialRise (withLevelD (nibble false b false true) (serialFall (withLevelD (nibble false b false false) s))) := by
  have hlow : (nibble false b false false).getLsbD 0 = false := nibble_bit _ _ _ _ 0
  have hhigh : (nibble false b false true).getLsbD 0 = true := nibble_bit _ _ _ _ 0
  have hfall := serialFall_of_transfer (s := withLevelD (nibble false b false false) s) h.running
  have hck : (serialFall (withLevelD (nibble false b false false) s)).serial.siock = 0 := by rw [hfall]; exact h.external
  have hprev : (serialFall (withLevelD (nibble false b false false) s)).serial.sckPrev = false := by
    rw [hfall]; exact hlow
  rw [clockPulse, dLevel_of_edge h.external (by rw [hlow, h.idlesHigh]; decide), hlow, if_neg Bool.false_ne_true,
    dLevel_of_edge hck (by rw [hprev, hhigh]; decide), hhigh, if_pos rfl]

/-- What a pulse leaves of the serial interface and its request (R434). -/
theorem clockPulse_serial {s : State} (h : ExternalTransfer s) (b : Bool) :
    (clockPulse s b).serial = { s.serial with
      siosfr := shiftIn s.serial.siosfr b
      count := s.serial.count + 1
      siots := decide (s.serial.count ≠ 7)
      armed := true
      sckPrev := true } ∧
    (clockPulse s b).req.sio = (s.req.sio || decide (s.serial.count = 7)) ∧
    (s.serial.siohiz = false → (clockPulse s b).ports.latchD.getLsbD 1 = s.serial.siosfr.getLsbD 7) := by
  have hlatch := serialFall_latch (s := withLevelD (nibble false b false false) s) h.running
  have hfall := serialFall_of_transfer (s := withLevelD (nibble false b false false) s) h.running
  rw [clockPulse_edges h]
  generalize serialFall (withLevelD (nibble false b false false) s) = u at hlatch hfall
  have hserial : (withLevelD (nibble false b false true) u).serial =
      { s.serial with armed := true, sckPrev := true } := by
    rw [hfall]
    cases b <;> rfl
  have hsi : (withLevelD (nibble false b false true) u).pins.d.getLsbD 2 = b := nibble_bit _ _ _ _ 2
  have hreq : (withLevelD (nibble false b false true) u).req = s.req := by rw [hfall]; rfl
  rw [serialRise_of_transfer (by rw [hserial]; exact h.running) (by rw [hserial]; exact h.enabled) (by rw [hserial]),
    hserial, hreq, hsi]
  exact ⟨rfl, rfl, hlatch⟩

/-- A pulse short of the eighth leaves the transfer running (R434). -/
theorem clockPulse_continues {s : State} (h : ExternalTransfer s) (b : Bool) (hc : s.serial.count ≠ 7) :
    ExternalTransfer (clockPulse s b) := by
  obtain ⟨hserial, -, -⟩ := clockPulse_serial h b
  refine ⟨?_, ?_, ?_, ?_⟩ <;> rw [hserial]
  · exact decide_eq_true hc
  · exact h.enabled
  · exact h.external

/-- Pulses short of the eighth shift their bits in and leave the transfer running (R434). -/
theorem clockPulses_continue {s : State} (bits : List Bool) (h : ExternalTransfer s)
    (hc : s.serial.count.toNat + bits.length < 8) :
    let t := bits.foldl clockPulse s
    ExternalTransfer t ∧ t.serial.siosfr = bits.foldl shiftIn s.serial.siosfr ∧
      t.serial.count = s.serial.count + BitVec.ofNat 3 bits.length ∧ t.serial.siohiz = s.serial.siohiz := by
  induction bits generalizing s with
  | nil => exact ⟨h, rfl, (BitVec.add_zero _).symm, rfl⟩
  | cons b rest ih =>
    rw [List.length_cons] at hc ⊢
    obtain ⟨hserial, -, -⟩ := clockPulse_serial h b
    have hnext := clockPulse_continues h b (by bv_omega)
    obtain ⟨hruns, hsfr, hcount, hz⟩ := ih hnext (by rw [hserial]; bv_omega)
    rw [hserial] at hsfr hcount hz
    refine ⟨hruns, hsfr, hcount.trans ?_, hz⟩
    bv_omega

/-- The bits of a byte, most significant first. -/
def bitsOf (v : Byte) : List Bool :=
  [v.getLsbD 7, v.getLsbD 6, v.getLsbD 5, v.getLsbD 4, v.getLsbD 3, v.getLsbD 2, v.getLsbD 1, v.getLsbD 0]

/-- The bits of a byte shifted in, most significant first, are the byte, whatever the register held. -/
theorem foldl_shiftIn_bitsOf (v w : Byte) : (bitsOf v).foldl shiftIn w = v := by
  apply BitVec.eq_of_getLsbD_eq
  intro i hi
  simp only [bitsOf, List.foldl_cons, List.foldl_nil]
  interval_cases i <;> simp [-BitVec.getLsbD_eq_getElem, shiftIn_bit]

/-- A bit of the register that shifts have not yet moved out (R434). -/
theorem foldl_shiftIn_bit (bits : List Bool) (w : Byte) {i : Nat} (hlen : bits.length ≤ i) (hi : i < 8) :
    (bits.foldl shiftIn w).getLsbD i = w.getLsbD (i - bits.length) := by
  induction bits generalizing w with
  | nil => rfl
  | cons b rest ih =>
    rw [List.length_cons] at hlen ⊢
    rw [List.foldl_cons, ih _ (by omega), shiftIn_bit _ _ (by omega), if_neg (by omega), Nat.sub_sub]

/-- The eighth pulse ends the transfer (R434): its request is set, and SO stays at the bit the pulse showed. -/
theorem clockPulse_eighth {s : State} (h : ExternalTransfer s) (hc : s.serial.count = 7) (b : Bool) :
    (clockPulse s b).serial.siosfr = shiftIn s.serial.siosfr b ∧ (clockPulse s b).serial.siots = false ∧
      (clockPulse s b).req.sio = true ∧
      (s.serial.siohiz = false → (clockPulse s b).ports.latchD.getLsbD 1 = s.serial.siosfr.getLsbD 7) := by
  obtain ⟨hserial, hreq, hlatch⟩ := clockPulse_serial h b
  rw [hserial, hreq, hc]
  exact ⟨rfl, rfl, Bool.or_true _, hlatch⟩

/-- Eight pulses of the external clock are a transfer: seven that continue it and the one that ends it (R434). -/
theorem clockPulses_eight {s : State} (h : ExternalTransfer s) (hc : s.serial.count = 0) {bits : List Bool}
    (hseven : bits.length = 7) (b : Bool) :
    let t := (bits ++ [b]).foldl clockPulse s
    t.serial.siosfr = (bits ++ [b]).foldl shiftIn s.serial.siosfr ∧ t.serial.siots = false ∧ t.req.sio = true ∧
      (s.serial.siohiz = false → t.ports.latchD.getLsbD 1 = s.serial.siosfr.getLsbD 0) := by
  obtain ⟨hruns, hsfr, hcount, hz⟩ := clockPulses_continue bits h (by rw [hc, hseven]; decide)
  have hlast := clockPulse_eighth hruns (by rw [hcount, hc, hseven]; rfl) b
  rw [hsfr, foldl_shiftIn_bit bits _ (by omega) (by omega), hseven, hz] at hlast
  rw [List.foldl_append, List.foldl_append]
  exact hlast

/-! ## The internal clocks (R431, R440) -/

/-- The internal serial clocks with their divisors in system clocks (R431). -/
def internalSerialClocks : List (BitVec 2 × Nat) := [(1, 16), (2, 128), (3, 1024)]

/-- The three internal serial clocks. -/
theorem internalSerialClocks_cases {ck : BitVec 2} {m : Nat} (h : (ck, m) ∈ internalSerialClocks) :
    ck = 1 ∧ m = 16 ∨ ck = 2 ∧ m = 128 ∨ ck = 3 ∧ m = 1024 := by simpa [internalSerialClocks] using h

/-- A period of an internal serial clock is not empty, and the divider holds whole periods. -/
theorem internalSerialClocks_period {ck : BitVec 2} {m : Nat} (h : (ck, m) ∈ internalSerialClocks) :
    0 < m ∧ m ∣ 2 ^ 10 := by
  rcases internalSerialClocks_cases h with ⟨-, rfl⟩ | ⟨-, rfl⟩ | ⟨-, rfl⟩ <;> decide

/-- The machine at another phase of the serial divider, with another latch of port 0D. -/
def atPhase (d : BitVec 10) (latch : Nibble) (s : State) : State :=
  { s with serial := { s.serial with sdiv := d }, ports := { s.ports with latchD := latch } }

/-- If a transfer runs, it is enabled and past its first falling edge. -/
structure PastFirstFall (s : State) : Prop where
  enabled : s.serial.siots = true → s.serial.sioen = true
  armed : s.serial.siots = true → s.serial.armed = true

/-- Without a transfer a rising edge does nothing (R434). -/
theorem serialRise_of_idle {s : State} (h : s.serial.siots = false) : serialRise s = s :=
  if_neg (by rw [h]; exact Bool.false_ne_true)

/-- Without a transfer a falling edge does nothing (R434). -/
theorem serialFall_of_idle {s : State} (h : s.serial.siots = false) : serialFall s = s :=
  if_neg (by rw [h]; exact Bool.false_ne_true)

/-- Past the first one a falling edge moves the latch alone (R434). -/
theorem serialFall_atPhase {s : State} (h : PastFirstFall s) (d : BitVec 10) (latch : Nibble) :
    ∃ latch', serialFall (atPhase d latch s) = atPhase d latch' s := by
  cases hts : s.serial.siots with
  | false => exact ⟨latch, serialFall_of_idle hts⟩
  | true =>
    have hfall := serialFall_of_transfer (s := atPhase d latch s) hts
    rw [← h.armed hts] at hfall
    exact ⟨_, hfall⟩

/-- A rising edge does not see the phase of the divider nor the latch (R434). -/
theorem serialRise_atPhase {s : State} (h : PastFirstFall s) (d : BitVec 10) (latch : Nibble) :
    serialRise (atPhase d latch s) = atPhase d latch (serialRise s) := by
  cases hts : s.serial.siots with
  | false => rw [serialRise_of_idle hts, serialRise_of_idle (s := atPhase d latch s) hts]
  | true =>
    rw [serialRise_of_transfer hts (h.enabled hts) (h.armed hts),
      serialRise_of_transfer (s := atPhase d latch s) hts (h.enabled hts) (h.armed hts)]
    rfl

/-- A rising edge changes neither the serial clock nor what makes a transfer one past its first falling edge. -/
theorem serialRise_keeps {s : State} (h : PastFirstFall s) :
    PastFirstFall (serialRise s) ∧ (serialRise s).serial.siock = s.serial.siock := by
  cases hts : s.serial.siots with
  | false =>
    rw [serialRise_of_idle hts]
    exact ⟨h, rfl⟩
  | true =>
    rw [serialRise_of_transfer hts (h.enabled hts) (h.armed hts)]
    exact ⟨⟨fun _ => h.enabled hts, fun _ => h.armed hts⟩, rfl⟩

/-- So do rising edges in a row. -/
theorem serialRise_iterate_keeps {s : State} (h : PastFirstFall s) (n : Nat) :
    PastFirstFall (serialRise^[n] s) ∧ (serialRise^[n] s).serial.siock = s.serial.siock := by
  induction n with
  | zero => exact ⟨h, rfl⟩
  | succ n ih =>
    obtain ⟨hpast, hck⟩ := ih
    rw [Function.iterate_succ_apply']
    obtain ⟨hpast', hck'⟩ := serialRise_keeps hpast
    exact ⟨hpast', hck'.trans hck⟩

/-- Edges of the clock of such a transfer are its rising edges, and the latch (R434). -/
theorem serialEdges_atPhase (edges : List Bool) {s : State} (h : PastFirstFall s) (d : BitVec 10) (latch : Nibble) :
    ∃ latch', serialEdges edges (atPhase d latch s) = atPhase d latch' (serialRise^[edges.count true] s) := by
  induction edges generalizing s latch with
  | nil => exact ⟨latch, rfl⟩
  | cons rising rest ih =>
    cases rising with
    | false =>
      obtain ⟨latch', hfall⟩ := serialFall_atPhase h d latch
      obtain ⟨latch'', hrest⟩ := ih h latch'
      refine ⟨latch'', ?_⟩
      rw [List.count_cons_of_ne (by decide), ← hrest, ← hfall]
      rfl
    | true =>
      obtain ⟨latch', hrest⟩ := ih (serialRise_keeps h).1 latch
      refine ⟨latch', ?_⟩
      rw [List.count_cons_self, Function.iterate_succ_apply, ← hrest, ← serialRise_atPhase h]
      rfl

/-- The rising edges of a clock of `m` system clocks within `k` slots from phase `p`: the line rises in the middle of its
period (R431). -/
def risesWithin (m p k : Nat) : Nat := (p % m + m / 2 + 16 * k) / m - (p % m + m / 2) / m

/-- A slot gives a rising edge when the middle of the period lies in it (R431, R440). -/
theorem dividerEdges_rises {ck : BitVec 2} {m q : Nat} (h : (ck, m) ∈ internalSerialClocks) (hq : q < m) :
    (q + m / 2) / m + (dividerEdges m q).count true = (q + 16 + m / 2) / m := by
  rcases internalSerialClocks_cases h with ⟨-, rfl⟩ | ⟨-, rfl⟩ | ⟨-, rfl⟩
  · rw [dividerEdges, if_neg (by decide), if_pos rfl]
    split <;> simp <;> omega
  all_goals
    rw [dividerEdges, if_neg (by decide), if_neg (by decide)]
    split_ifs <;> simp <;> omega

/-- The phase of an internal serial clock after `n` more system clocks (R431). -/
theorem dividerPhase_add {ck : BitVec 2} {m : Nat} (h : (ck, m) ∈ internalSerialClocks) (p : BitVec 10) (n : Nat) :
    (p + BitVec.ofNat 10 n).toNat % m = (p.toNat % m + n) % m := by
  rw [BitVec.toNat_add, BitVec.toNat_ofNat, Nat.add_mod_mod, Nat.mod_mod_of_dvd _ (internalSerialClocks_period h).2,
    Nat.mod_add_mod]

/-- One slot more gives the rising edges of its own phase (R431, R440). -/
theorem risesWithin_succ {ck : BitVec 2} {m : Nat} (h : (ck, m) ∈ internalSerialClocks) (p : BitVec 10) (k : Nat) :
    risesWithin m p.toNat (k + 1) = risesWithin m p.toNat k +
      (dividerEdges m ((p + BitVec.ofNat 10 (16 * k)).toNat % m)).count true := by
  have hrises := dividerEdges_rises h (q := (p.toNat % m + 16 * k) % m)
  rw [dividerPhase_add h]
  generalize (dividerEdges m ((p.toNat % m + 16 * k) % m)).count true = n at *
  unfold risesWithin
  rcases internalSerialClocks_cases h with ⟨-, rfl⟩ | ⟨-, rfl⟩ | ⟨-, rfl⟩ <;> omega

/-- One slot of an internal clock of `m` system clocks, at any phase (R440). -/
theorem serialSlot_atPhase {s : State} {m : Nat} (hck : (s.serial.siock, m) ∈ internalSerialClocks)
    (h : PastFirstFall s) (d : BitVec 10) (latch : Nibble) :
    ∃ latch', serialSlot (atPhase d latch s) =
      atPhase (d + 16) latch' (serialRise^[(dividerEdges m (d.toNat % m)).count true] s) := by
  have hm : serialDivisor s.serial.siock = m := by
    rcases internalSerialClocks_cases hck with ⟨hsel, rfl⟩ | ⟨hsel, rfl⟩ | ⟨hsel, rfl⟩ <;> rw [hsel] <;> rfl
  rw [← hm]
  exact serialEdges_atPhase _ h (d + 16) latch

/-- `k` slots of an internal clock of `m` system clocks are its rising edges (R431, R440). -/
theorem serialSlot_iterate {s : State} {m : Nat} (hck : (s.serial.siock, m) ∈ internalSerialClocks)
    (h : PastFirstFall s) (k : Nat) : ∃ latch, serialSlot^[k] s =
      atPhase (s.serial.sdiv + BitVec.ofNat 10 (16 * k)) latch
        (serialRise^[risesWithin m s.serial.sdiv.toNat k] s) := by
  induction k with
  | zero =>
    refine ⟨s.ports.latchD, ?_⟩
    rw [risesWithin, Nat.mul_zero, Nat.add_zero, Nat.sub_self, BitVec.add_zero]
    rfl
  | succ k ih =>
    obtain ⟨latch, ih⟩ := ih
    obtain ⟨hpast, hsame⟩ := serialRise_iterate_keeps h (risesWithin m s.serial.sdiv.toNat k)
    obtain ⟨latch', hslot⟩ := serialSlot_atPhase (by rw [hsame]; exact hck) hpast
      (s.serial.sdiv + BitVec.ofNat 10 (16 * k)) latch
    have hphase : s.serial.sdiv + BitVec.ofNat 10 (16 * k) + 16 = s.serial.sdiv + BitVec.ofNat 10 (16 * (k + 1)) := by
      bv_omega
    refine ⟨latch', ?_⟩
    rw [Function.iterate_succ_apply', ih, hslot, ← Function.iterate_add_apply, risesWithin_succ hck, Nat.add_comm,
      hphase]

/-- Over one period of an internal clock, whatever its phase, there is one rising edge (R431, R440). -/
theorem serialSlot_period {s : State} {n : Nat} (hck : (s.serial.siock, 16 * n) ∈ internalSerialClocks)
    (h : PastFirstFall s) : ∃ d latch, serialSlot^[n] s = atPhase d latch (serialRise s) := by
  obtain ⟨latch, hslots⟩ := serialSlot_iterate hck h n
  have hpos : 0 < 16 * n := (internalSerialClocks_period hck).1
  have hone : risesWithin (16 * n) s.serial.sdiv.toNat n = 1 := by
    rw [risesWithin, Nat.add_div_right _ hpos, Nat.succ_sub (Nat.le_refl _), Nat.sub_self]
  rw [hone] at hslots
  exact ⟨_, latch, hslots⟩

end Sys2Proof.Machine
end

section
/-! PROOFS of the peripherals family (3): the comparator (R421) and the reads of the port registers (R380 to R390). -/
namespace Sys2Proof.Machine

/-! ## The comparator (R421) -/

/-- A slot of a comparison before its last one counts down (R421). -/
theorem comparatorSlot_of_more {s : State} (h : 2 ≤ s.comparator.busy) :
    comparatorSlot s = { s with comparator := { s.comparator with busy := s.comparator.busy - 1 } } :=
  (if_neg (by omega)).trans (if_neg (by omega))

/-- The last slot of an undisturbed comparison delivers the host's answer (R421). -/
theorem comparatorSlot_of_last {s : State} (h : s.comparator.busy = 1) (hd : s.comparator.disturbed = false) :
    (comparatorSlot s).comparator = { s.comparator with strt := false, busy := 0, rslt := s.pins.cmpHigher } := by
  rw [comparatorSlot, if_neg (by omega), if_pos h]
  simp only [hd, Bool.false_eq_true, if_false]

/-- The slots of a comparison before its last one (R421). -/
theorem comparatorSlot_iterate {s : State} {k : Nat} (h : k < s.comparator.busy) :
    comparatorSlot^[k] s = { s with comparator := { s.comparator with busy := s.comparator.busy - k } } := by
  induction k with
  | zero => rfl
  | succ k ih =>
    rw [Function.iterate_succ_apply', ih (by omega), comparatorSlot_of_more (by show 2 ≤ s.comparator.busy - k; omega)]
    rfl

/-! ## The port registers (R380 to R390) -/

/-- Every part has its port registers at their addresses (R106). -/
theorem region_portAddr (part : Part) (p : Port) : region part (portAddr p) = .port p := by
  cases part <;> cases p <;> rfl

/-- A bit of a read of ports 0A to 0D (R380). -/
theorem memRead_port_bit (s : State) (site : Draw) {p : Port} (hp : p ≠ .e) {n : Nat} (hn : n < 4) :
    (memRead s site (portAddr p)).getLsbD n = portBit s site p n := by
  have hread : portRead s site p = nibbleOf (portBit s site p) := by
    cases p with
    | e => exact absurd rfl hp
    | _ => rfl
  rw [memRead_of_port site (region_portAddr _ _), hread, nibbleOf, nibble_bit]
  interval_cases n <;> rfl

/-- A bit of a read of port 0E, whose bits 3 and 2 read 0 (R390). -/
theorem memRead_portE_bit (s : State) (site : Draw) {n : Nat} (hn : n < 4) :
    (memRead s site (portAddr .e)).getLsbD n = (decide (n < 2) && pinLevel s .e n) := by
  have hread : portRead s site .e = nibble false false (pinLevel s .e 1) (pinLevel s .e 0) := rfl
  rw [memRead_of_port site (region_portAddr _ _), hread, nibble_bit]
  interval_cases n <;> rfl

/-- The bit of an ordinary port pin: the latch in output mode, else the level at the pin (R380). -/
theorem portBit_of_ordinary (s : State) (site : Draw) {p : Port} {n : Nat}
    (hsource : readSource s p n = portSource s p n)
    (hdrive : outputMode s p n = false → drive s p n = .input) : portBit s site p n =
      if outputMode s p n then (portLatch s p).getLsbD n else (hostLevel s p).getLsbD n := by
  cases hmode : outputMode s p n with
  | false => simp only [portBit, hsource, portSource, hmode, pinLevel, hdrive hmode, Bool.false_eq_true, if_false]
  | true => simp only [portBit, hsource, portSource, hmode, if_true]

/-- A bit of port 0A, 0B or 0C (R381 to R383, R386). -/
theorem memRead_pushPull_bit (s : State) (site : Draw) {p : Port} (hp : p = .a ∨ p = .b ∨ p = .c) {n : Nat} (hn : n < 4) :
    (memRead s site (portAddr p)).getLsbD n =
      if outputMode s p n then (portLatch s p).getLsbD n else (hostLevel s p).getLsbD n := by
  have hne : p ≠ .e := by rcases hp with rfl | rfl | rfl <;> decide
  rw [memRead_port_bit s site hne hn]
  rcases hp with rfl | rfl | rfl
  all_goals exact portBit_of_ordinary s site rfl fun h => if_neg (by rw [h]; exact Bool.false_ne_true)

/-- A pin of port 0D that neither the serial interface nor the timer output uses is ordinary (R387). -/
theorem memRead_portD_ordinary {s : State} (site : Draw) {n : Nat} (hn : n < 4)
    (h : n < 3 ∧ s.serial.sioen = false ∨ n = 3 ∧ s.timer.tmosel = false) :
    (memRead s site (portAddr .d)).getLsbD n =
      if outputMode s .d n then (portLatch s .d).getLsbD n else (hostLevel s .d).getLsbD n := by
  have hdrive : drive s .d n = openDrainPort s .d n := by
    rcases h with ⟨h3, hoff⟩ | ⟨rfl, hoff⟩
    · interval_cases n <;> simp only [drive, driveD, hoff, Bool.false_eq_true, if_false]
    · simp only [drive, driveD, hoff, Bool.false_eq_true, if_false]
  have hsource : readSource s .d n = portSource s .d n := by
    rcases h with ⟨h3, hoff⟩ | ⟨rfl, hoff⟩
    · interval_cases n <;> simp only [readSource, hoff, Bool.false_eq_true, if_false]
    · simp only [readSource, hoff, Bool.false_eq_true, if_false]
  rw [memRead_port_bit s site (by decide) hn]
  refine portBit_of_ordinary s site hsource fun hmode => hdrive.trans (if_neg ?_)
  rw [hmode]
  exact Bool.false_ne_true

/-- The pins of port 0D that the serial interface uses: SCK, SO and SI (R387, Table 12-6). -/
theorem memRead_portD_serial {s : State} (site : Draw) (h : s.serial.sioen = true) :
    (memRead s site (portAddr .d)).getLsbD 0 =
      (if s.serial.siock = 0 then s.pins.d.getLsbD 0 else s.ports.latchD.getLsbD 0) ∧
    (memRead s site (portAddr .d)).getLsbD 1 =
      (if s.serial.siohiz then s.pins.d.getLsbD 1 else (Config.free s.slot site 1).getLsbD 0) ∧
    (memRead s site (portAddr .d)).getLsbD 2 = s.pins.d.getLsbD 2 := by
  rw [memRead_port_bit s site (by decide) (by decide), memRead_port_bit s site (by decide) (by decide),
    memRead_port_bit s site (by decide) (by decide)]
  refine ⟨?_, ?_, ?_⟩
  · by_cases hck : s.serial.siock = 0 <;>
      simp only [portBit, readSource, pinLevel, drive, driveD, hostLevel, portLatch, h, hck, if_true, if_false]
  · cases hz : s.serial.siohiz <;>
      simp only [portBit, readSource, pinLevel, drive, driveD, hostLevel, h, hz, Bool.false_eq_true, if_true, if_false]
  · simp only [portBit, readSource, pinLevel_si h, h, if_true]

/-- The pin that the timer output uses (R387). -/
theorem memRead_portD_timer {s : State} (site : Draw) (h : s.timer.tmosel = true) :
    (memRead s site (portAddr .d)).getLsbD 3 = s.ports.latchD.getLsbD 3 := by
  rw [memRead_port_bit s site (by decide) (by decide)]
  simp only [portBit, readSource, portLatch, h, if_true]

/-- The level of an open-drain pin of port 0E: pulled low by a latch bit of 0 in output mode (R91, R390). -/
theorem pinLevel_portE (s : State) (n : Nat) :
    pinLevel s .e n = (s.pins.e.getLsbD n && (!s.ports.ebio.getLsbD n || s.ports.latchE.getLsbD n)) := by
  have hhost : (hostLevel s .e).getLsbD n = s.pins.e.getLsbD n := lowPair_bit _ _
  have hlatch : (portLatch s .e).getLsbD n = s.ports.latchE.getLsbD n := lowPair_bit _ _
  have hmode : outputMode s .e n = s.ports.ebio.getLsbD n := rfl
  unfold pinLevel
  simp only [drive, openDrainPort, hhost, hlatch, hmode]
  cases s.ports.ebio.getLsbD n <;> cases s.ports.latchE.getLsbD n <;> simp

end Sys2Proof.Machine
end

section
/-! PROOFS of the peripherals family (4): the statements, all of tier 2, assembled from the laws above. -/
namespace Sys2Proof.Certificates
open Sys2Proof.Machine

/-- Settles O54: TMM pulses count, and the next one finds the count at TMM. -/
theorem timerInterval : Obligations.TimerInterval := by
  intro s hc hr
  have hcount : ∀ k ≤ s.timer.tmm.toNat, countPulse^[k] s = s.withTimer { s.timer with tmc := BitVec.ofNat 8 k } := by
    intro k hk
    have hsum : s.timer.tmc + BitVec.ofNat 8 k = BitVec.ofNat 8 k := by rw [hc]; exact BitVec.zero_add _
    rw [countPulse_iterate (by rw [hc]; simpa using hk), hsum]
  refine ⟨fun k hk => ?_, ?_⟩
  · rw [hcount k hk]
    exact ⟨Nat.mod_eq_of_lt (by omega), hr⟩
  · rw [Function.iterate_succ_apply', hcount _ (Nat.le_refl _), countPulse_of_match (by simp)]
    exact ⟨rfl, rfl, rfl⟩

/-- Settles O55: the prescaler over one period, and the levels of INT as count pulses of the counted edges. -/
theorem timerPrescaler : Obligations.TimerPrescaler := by
  intro s
  refine ⟨fun he hk c hc hck => ?_, fun h => ?_, fun hck he hm levels => ?_, fun h single levels => ?_⟩
  · have hclock : (s.timer.tmck, 16 * c.2) ∈ internalClocks := by
      simp only [List.mem_cons, List.not_mem_nil, or_false] at hc
      rw [hck]
      rcases hc with rfl | rfl | rfl <;> decide
    rw [timerSlot_period hclock he hk]
    exact ⟨rfl, rfl⟩
  · refine timerSlot_of_noWrap ?_
    rcases h with h | h
    · rw [prescalerWraps_external h, Bool.and_false]
    · rw [h, Bool.false_and]
  · have hon : countsInt s = true := by simp only [countsInt, hck, he]; rfl
    have htimer : ∀ single, (intLevels true single levels s).timer =
        (countPulse^[countedEdges true single s.intPrev levels] s).timer := by
      intro single
      rw [intLevels_eq, hon, intEdges_frame, timerPulse_iterate_of_noWait hm]
      rfl
    exact ⟨htimer false, htimer true⟩
  · have hoff : countsInt s = false := by
      rcases h with h | h
      · simp only [countsInt, beq_false_of_ne h, Bool.and_false]
      · simp only [countsInt, h, Bool.false_and]
    rw [intLevels_eq, hoff, intEdges_frame]
    rfl

/-- Settles O56: the levels are seven pulses and an eighth. -/
theorem serialTransfer : Obligations.SerialTransfer := by
  intro s v hts hen hck hc _ hprev bits
  have hpulses := clockPulses_eight ⟨hts, hen, hck, hprev⟩ hc (bits := bits.dropLast) rfl (v.getLsbD 0)
  have hbits : bits.dropLast ++ [v.getLsbD 0] = bits := rfl
  have hvalue : bits.foldl shiftIn s.serial.siosfr = v := foldl_shiftIn_bitsOf v _
  rw [hbits, hvalue, ← foldl_clockIn] at hpulses
  exact hpulses

/-- Settles O57: the slots before the last one, and the last one. -/
theorem comparisonEnds : Obligations.ComparisonEnds := by
  intro s hs hd hb
  refine ⟨fun k hk => ?_, ?_⟩
  · rw [comparatorSlot_iterate hk]
    exact ⟨hs, rfl⟩
  · obtain ⟨n, hn⟩ : ∃ n, s.comparator.busy = n + 1 := ⟨s.comparator.busy - 1, by omega⟩
    rw [hn, Function.iterate_succ_apply', comparatorSlot_iterate (by omega)]
    have hone : s.comparator.busy - n = 1 := by omega
    rw [hone]
    exact comparatorSlot_of_last rfl hd

/-- Settles O58: one level by the edge detector, and the levels of a slot with the count pulses set apart. -/
theorem intEdgeDetector : Obligations.IntEdgeDetector := by
  intro s now
  refine ⟨rfl, ?_, fun counting single levels => ?_⟩
  · rw [← edgeSelected_iff]
    exact Bool.or_eq_true_iff
  · have hcounts := intLevels_countsOnly counting single levels s
    have hprev : (intEdges levels s).intPrev = levels.getLastD s.intPrev := by rw [intEdges_frame]
    have hpin : (intEdges levels s).pins.int = levels.getLastD s.pins.int := by rw [intEdges_frame]
    rw [hcounts.req, hcounts.intPrev, hcounts.pins]
    exact ⟨rfl, hprev, hpin⟩

/-- Settles O59. -/
theorem portRegisters : Obligations.PortRegisters := by
  intro s site n hn
  exact ⟨memRead_pushPull_bit s site (.inl rfl) hn, memRead_pushPull_bit s site (.inr (.inl rfl)) hn,
    memRead_pushPull_bit s site (.inr (.inr rfl)) hn, memRead_portD_ordinary site hn, memRead_portD_serial site,
    memRead_portD_timer site, by rw [Bool.and_assoc, ← pinLevel_portE]; exact memRead_portE_bit s site hn⟩

/-- Settles O60: one period of the divider is one rising edge; in STOP mode the levels of P0D are pin levels alone. -/
theorem internalSerialClock : Obligations.InternalSerialClock := by
  intro s hts hen ha
  refine ⟨fun c hc hck => ?_, fun hck h => ?_⟩
  · have hclock : (s.serial.siock, 16 * c.2) ∈ internalSerialClocks := by
      simp only [List.mem_cons, List.not_mem_nil, or_false] at hc
      rw [hck]
      rcases hc with rfl | rfl | rfl <;> decide
    obtain ⟨d, latch, hperiod⟩ := serialSlot_period hclock ⟨fun _ => hen, fun _ => ha⟩
    rw [hperiod, serialRise_of_transfer hts hen ha]
    exact ⟨rfl, rfl, rfl, rfl⟩
  · obtain ⟨hserial, hsio⟩ := intLevels_serial false false h.intLevels (sampleLevels h s)
    have hlevels := dLevels_of_internal h.dLevels (s := intLevels false false h.intLevels (sampleLevels h s))
      (by rw [hserial]; exact hck)
    rw [stoppedDevices, hlevels, hserial, hsio]
    exact ⟨rfl, rfl⟩

end Sys2Proof.Certificates
end
